-- ==== Sys2Proof/Word.lean ====
section
/-! DEFINITION. Bytes, byte sequences and the widths of the registers (00_scope.md R8, R11; 10_state.md). -/

namespace Sys2Proof

/-- R11: an unsigned integer in 0..255. -/
abbrev Byte := BitVec 8

/-- R11: a buffer, a finite byte sequence; the head is the first byte on the wire. -/
abbrev Bytes := List Byte

/-- R8, R60: one whole datagram, of any length. -/
abbrev Datagram := Bytes

/-- R8 `SEQ_W`: an unsigned 32-bit sequence number. -/
abbrev SeqNo := BitVec 32

/-- R24, R25: a signed (two's-complement) 33-bit window bound. -/
abbrev Bound := BitVec 33

/-- R9 `FSZ_W`: an unsigned 42-bit file size. -/
abbrev FileSize := BitVec 42

/-- R28, R36: the 10-bit payload length of a buffer slot. -/
abbrev SlotLen := BitVec 10

/-- R8 `ACC_W`: the checksum accumulator. -/
abbrev Acc := BitVec 32

end Sys2Proof
end

