-- ==== Sys2Proof/Config.lean ====
section
/-! DEFINITION. The named constants (00_scope.md R8) and the parameters of a run (00_scope.md R9, 10_state.md R40). -/

namespace Sys2Proof

/-- R8 `HDR_LEN`. -/
abbrev hdrLen : Nat := 9
/-- R8 `CHUNK`: the largest payload and the file chunk size. -/
abbrev chunkSize : Nat := 1015
/-- R8 `MAX_DGRAM` = `HDR_LEN` + `CHUNK`. -/
abbrev maxDgram : Nat := 1024
/-- R8 `WINDOW`. -/
abbrev windowSize : Nat := 5
/-- R8 `ACK_PAYLOAD`. -/
abbrev ackPayload : Nat := 4
/-- R9 `FILE_SIZE_MAX` = (2^32 - 1) * 1015. -/
abbrev fileSizeMax : Nat := (2 ^ 32 - 1) * 1015

/-- R9, R40: the parameters a model takes as arguments, fixed for the life of the block, and the file
store `FS` of R62. They stand in the state as plain data that no rule writes, so a claim about every
state is a claim for every parameter value (log 2). `fs` is a finite association list in which the
first entry of a path counts (log 3). -/
structure Config where
  /-- `RETRY_CAP`: `none` (unbounded) or `N >= 1` (D13). -/
  retryCap : Option Nat
  /-- `RX_BATCH >= 1`, standard value 5 (D14). -/
  rxBatch : Nat
  /-- `RB_DEPTH >= 5`, standard value 5 (D15). -/
  rbDepth : Nat
  /-- `T_REQ` in milliseconds; timing only (D9). -/
  tReq : Nat
  /-- `T_STEADY` in milliseconds; timing only (D9). -/
  tSteady : Nat
  /-- `FS`: path to file image (R62, D7). -/
  fs : List (Bytes × Bytes)
  deriving DecidableEq, Repr

/-- The values of R9. DESIGN CHOICE (log 2): `RETRY_CAP`, which R9 leaves OPEN, is `none`, the reference
behaviour, and the file store is empty; the spec gives neither a reset value. -/
def Config.standard : Config :=
  { retryCap := none, rxBatch := 5, rbDepth := 5, tReq := 2000, tSteady := 5000, fs := [] }

/-- R9: the values a parameter may take. -/
def Config.wf (c : Config) : Bool :=
  decide (1 ≤ c.rxBatch) && decide (windowSize ≤ c.rbDepth) &&
    (match c.retryCap with
     | none => true
     | some n => decide (1 ≤ n))

end Sys2Proof
end

