-- ==== Sys2Proof/Machine/Operands.lean ====
section
/-! DEFINITION. Field assembly (00_scope.md R13; 30_encoding.md R90, R103) and the chunk address map (20_memory.md R64). -/

namespace Sys2Proof.Machine

open Sys2Proof

/-- The byte at index `i`; 0 past the end, which no rule reads (R61: fields are read after the length checks). -/
def byteAt (b : Bytes) (i : Nat) : Byte := b.getD i 0

/-- R13 `BE16(b, i)`. -/
def be16 (b : Bytes) (i : Nat) : BitVec 16 := byteAt b i ++ byteAt b (i + 1)

/-- R13 `BE32(b, i)`. -/
def be32 (b : Bytes) (i : Nat) : SeqNo :=
  ((byteAt b i ++ byteAt b (i + 1) : BitVec 16) ++ (byteAt b (i + 2) ++ byteAt b (i + 3) : BitVec 16) : BitVec 32)

/-- R13 `putBE16`: the two bytes stored, most significant first. -/
def putBE16 (v : BitVec 16) : Bytes := [v.extractLsb' 8 8, v.extractLsb' 0 8]

/-- R13 `putBE32`: the four bytes stored, most significant first (also the Ack payload, R99). -/
def putBE32 (v : BitVec 32) : Bytes :=
  [v.extractLsb' 24 8, v.extractLsb' 16 8, v.extractLsb' 8 8, v.extractLsb' 0 8]

/-- R11 `b[off .. off+n-1]`. -/
def slice (b : Bytes) (off n : Nat) : Bytes := (b.drop off).take n

/-- R64: the byte offset of chunk `k`. -/
def chunkOffset (k : Nat) : Nat := k * chunkSize

/-- R64: the length of chunk `k` of a file of `size` bytes. -/
def chunkLength (size k : Nat) : Nat := min chunkSize (size - k * chunkSize)

/-- R12 `ceil(a / b)`. -/
def ceilDiv (a b : Nat) : Nat := (a + b - 1) / b

/-- R25, R155: the sequence number of the last chunk, -1 for an empty file. -/
def maxSequenceOf (size : Nat) : Int := (ceilDiv size chunkSize : Int) - 1

/-- R24, R155, R159: the window's end, formed on integers (R12). -/
def windowEndOf (start : Nat) (maxSeq : Int) : Int := min ((start : Int) + 4) maxSeq

end Sys2Proof.Machine
end

