-- ==== Sys2Proof/Syntax.lean ====
section
/-! DEFINITION. The two engines, the inputs of the block, and the instructions: the seven packet kinds and the
eight input events of spec/opcode_table.json (00_scope.md R7; 30_encoding.md R96, R104). -/

namespace Sys2Proof

/-- R14, R269: the two engines of a block instance. -/
inductive Engine where
  | sender
  | receiver
  deriving DecidableEq, Repr

/-- One constructor per row of the opcode table. A packet constructor is "engine `e` takes this valid
packet": R76 lets any datagram reach either engine, so the engine is an operand (log 8). The length and
checksum fields are no operands: R101 fixes the one and R124 computes the other. -/
inductive Instr where
  /-- FILE_REQUEST, opcode 0x00 (R96): sequence number and path. -/
  | fileRequest (e : Engine) (seq : SeqNo) (path : Bytes)
  /-- DATA, opcode 0x01: absolute chunk index and chunk. -/
  | data (e : Engine) (seq : SeqNo) (payload : Bytes)
  /-- ACK, opcode 0x02: the sequence field and the payload's `next` (R99). -/
  | ack (e : Engine) (seq : SeqNo) (next : SeqNo)
  /-- FILE_NOT_FOUND, opcode 0x03. -/
  | fileNotFound (e : Engine) (seq : SeqNo)
  /-- FILE_NOT_FOUND_ACK, opcode 0x04. -/
  | fileNotFoundAck (e : Engine) (seq : SeqNo)
  /-- DONE, opcode 0x05. -/
  | done (e : Engine) (seq : SeqNo)
  /-- DONE_ACK, opcode 0x06. -/
  | doneAck (e : Engine) (seq : SeqNo)
  /-- RESET, event 0x01 (R104, R290). -/
  | reset
  /-- SERVE, event and command 0x10 (R151). -/
  | serve
  /-- FETCH, event and command 0x11 (R201): a path of any length. -/
  | fetch (path : Bytes)
  /-- RX of the sender, event 0x20 (R152): any byte string. -/
  | rxS (d : Datagram)
  /-- RX of the receiver, event 0x21 (R202): any byte string. -/
  | rxR (d : Datagram)
  /-- TIMEOUT of the sender, event 0x30 (R161, R164, R168). -/
  | timeoutS
  /-- TIMEOUT of the receiver, event 0x31 (R205, R225). -/
  | timeoutR
  /-- DRAIN_END, event 0x41 (R221). -/
  | drainEnd
  deriving DecidableEq, Repr

/-- Where an input arrives: the host's command port (R41, R105) or the block's other event inputs (R104). -/
inductive Port where
  | command
  | event
  deriving DecidableEq, Repr

/-- One input as it is offered to the block: an 8-bit code, then its operand bytes (R104, R105). The
operand's length is the list's length: a path's given length or a datagram's boundary. -/
structure Input where
  port : Port
  code : Byte
  operand : Bytes
  deriving DecidableEq, Repr

/-- R17: a packet value. -/
structure Packet where
  op : Byte
  seq : SeqNo
  len : BitVec 16
  csum : BitVec 16
  payload : Bytes
  deriving DecidableEq, Repr

/-- R250: the drop classes. Codes 10 to 15, which are never written, have no constructor (log 15). -/
inductive DropClass where
  /-- 0: no datagram dropped since session start or reset. -/
  | none
  /-- 1: shorter than 9 bytes. -/
  | short
  /-- 2: longer than 1024 bytes. -/
  | long
  /-- 3: the checksum does not verify. -/
  | corrupt
  /-- 4: opcode above 6. -/
  | badOpcode
  /-- 5: the length field disagrees with the datagram's length. -/
  | badLength
  /-- 6: a payload length its opcode does not allow. -/
  | badPayload
  /-- 7: a valid packet with no handler in the state. -/
  | ignored
  /-- 8: DATA beyond the reorder buffer or with sequence 2^32 - 1. -/
  | capacity
  /-- 9: DATA already in the seen-set. -/
  | duplicate
  deriving DecidableEq, Repr

end Sys2Proof
end

