-- ==== Sys2Proof/Machine/Codec.lean ====
section
/-! DEFINITION. The packet codec, which has no state (40_codec.md): checksum, framer and parser. -/

namespace Sys2Proof.Machine

open Sys2Proof

/-- R120: one fold of the carry bits into the low half. -/
def foldCarry (sum : Acc) : Acc := (sum &&& 0xFFFF#32) + (sum >>> 16)

/-- R67: checksum word of two bytes, low byte first. -/
def pairWord (lo hi : Byte) : Acc := lo.setWidth 32 ||| (hi.setWidth 32 <<< 8)

/-- R120: the sum over the byte pairs, folded after each addition; R121: a lone last byte is the low
byte of a word whose high byte is 0. PRESUMED, the spec's own G1 (log 18). -/
def sumWords (sum : Acc) : Bytes → Acc
  | lo :: hi :: rest => sumWords (foldCarry (sum + pairWord lo hi)) rest
  | [last] => foldCarry (sum + last.setWidth 32)
  | [] => sum

/-- R120: fold "again at the end until no carry remains". A 32-bit sum has none after two folds. -/
def foldToEnd : Nat → Acc → Acc
  | 0, sum => sum
  | n + 1, sum => if sum >>> 16 = 0#32 then sum else foldToEnd n (foldCarry sum)

/-- R120 `Checksum(b)`. -/
def checksum (b : Bytes) : BitVec 16 := (~~~ foldToEnd 2 (sumWords 0#32 b)).setWidth 16

/-- R126 `Verify(b)`: the checksum of the whole buffer, checksum field included, is zero. -/
def verify (b : Bytes) : Bool := checksum b == 0#16

/-- R90: the nine header bytes. -/
def headerBytes (op : Byte) (seq : SeqNo) (len csum : BitVec 16) : Bytes :=
  op :: (putBE32 seq ++ putBE16 len ++ putBE16 csum)

/-- R124, R90: the whole packet with a given checksum field. -/
def packetBytes (op : Byte) (seq : SeqNo) (csum : BitVec 16) (payload : Bytes) : Bytes :=
  headerBytes op seq (BitVec.ofNat 16 payload.length) csum ++ payload

/-- R124: the packet, its checksum computed over the full buffer with the checksum field zero. -/
def frame (op : Byte) (seq : SeqNo) (payload : Bytes) : Bytes :=
  packetBytes op seq (checksum (packetBytes op seq 0#16 payload)) payload

/-- R124, R128 `Encode(op, seq, payload)`: `none` outside the preconditions, where a call has no
meaning. `seq` is an integer, as the engines form it (R12). -/
def encodePacket (op : Byte) (seq : Nat) (payload : Bytes) : Option Datagram :=
  if op.toNat ≤ 6 ∧ seq < 2 ^ 32 ∧ payload.length ≤ chunkSize then
    some (frame op (BitVec.ofNat 32 seq) payload)
  else none

/-- R97: the payload lengths each opcode allows, beyond the bound of R95. -/
def payloadAllowed (op : Byte) (len : Nat) : Bool :=
  match op.toNat with
  | 2 => len == ackPayload
  | 3 | 4 | 5 | 6 => len == 0
  | _ => true

/-- R103: the fields of a datagram that has passed the checks. -/
def packetFields (b : Bytes) : Packet :=
  { op := byteAt b 0, seq := be32 b 1, len := be16 b 5, csum := be16 b 7, payload := b.drop hdrLen }

/-- R129 `Decode(b)`: the checks in the order of R258; the first that fails gives the class. -/
def decodePacket (b : Bytes) : Except DropClass Packet :=
  if b.length < hdrLen then .error .short
  else if maxDgram < b.length then .error .long
  else if verify b = false then .error .corrupt
  else if 6 < (byteAt b 0).toNat then .error .badOpcode
  else if (be16 b 5).toNat ≠ b.length - hdrLen then .error .badLength
  else if payloadAllowed (byteAt b 0) (be16 b 5).toNat = false then .error .badPayload
  else .ok (packetFields b)

/-- R103: `next` of an ACK. -/
def ackNext (p : Packet) : SeqNo := be32 p.payload 0

/-- R96: the instruction a decoded packet is when engine `e` takes it; `none` for the reserved opcodes
of R100, which `decodePacket` never returns (R130). -/
def packetInstr (e : Engine) (p : Packet) : Option Instr :=
  match p.op.toNat with
  | 0 => some (.fileRequest e p.seq p.payload)
  | 1 => some (.data e p.seq p.payload)
  | 2 => some (.ack e p.seq (ackNext p))
  | 3 => some (.fileNotFound e p.seq)
  | 4 => some (.fileNotFoundAck e p.seq)
  | 5 => some (.done e p.seq)
  | 6 => some (.doneAck e p.seq)
  | _ => none

end Sys2Proof.Machine
end

