-- ==== Sys2Proof/Decode.lean ====
section
/-! DEFINITION. Reading an input as an instruction (30_encoding.md R104, R105, R107) and writing one. -/

namespace Sys2Proof

open Sys2Proof.Machine

/-- Why an input is no instruction. -/
inductive DecodeError where
  /-- R107: the event code is none of R104's. -/
  | reservedEvent (code : Byte)
  /-- R105, R256: a command code other than 0x10 and 0x11. -/
  | unknownCommand (code : Byte)
  /-- R104, R105: operand bytes on an event or command that has no operand (log 10). -/
  | operandNotAllowed (code : Byte)
  deriving DecidableEq, Repr

/-- R104: an event or command with no operand. -/
def bare (code : Byte) (operand : Bytes) (i : Instr) : Except DecodeError Instr :=
  match operand with
  | [] => .ok i
  | _ :: _ => .error (.operandNotAllowed code)

/-- R76, R150, R200: a delivered datagram is the instruction of the packet it decodes to, and the
engine's RX row when it decodes to none. -/
def delivered (e : Engine) (d : Datagram) : Instr :=
  match decodePacket d with
  | .error _ =>
    match e with
    | .sender => .rxS d
    | .receiver => .rxR d
  | .ok p =>
    match packetInstr e p with
    | some i => i
    | none =>
      match e with
      | .sender => .rxS d
      | .receiver => .rxR d

/-- R105: the host's command port takes SERVE and FETCH (log 9). -/
def decodeCommand (code : Byte) (operand : Bytes) : Except DecodeError Instr :=
  match code.toNat with
  | 0x10 => bare code operand .serve
  | 0x11 => .ok (.fetch operand)
  | _ => .error (.unknownCommand code)

/-- R104: the event alphabet. -/
def decodeEvent (code : Byte) (operand : Bytes) : Except DecodeError Instr :=
  match code.toNat with
  | 0x01 => bare code operand .reset
  | 0x10 => bare code operand .serve
  | 0x11 => .ok (.fetch operand)
  | 0x20 => .ok (delivered .sender operand)
  | 0x21 => .ok (delivered .receiver operand)
  | 0x30 => bare code operand .timeoutS
  | 0x31 => bare code operand .timeoutR
  | 0x41 => bare code operand .drainEnd
  | _ => .error (.reservedEvent code)

/-- The instruction an input is, or why it is none. -/
def decode (w : Input) : Except DecodeError Instr :=
  match w.port with
  | .command => decodeCommand w.code w.operand
  | .event => decodeEvent w.code w.operand

/-- R104: the RX code of an engine. -/
def rxCode : Engine → Byte
  | .sender => 0x20#8
  | .receiver => 0x21#8

/-- R76: the input that delivers `d` to `e`. -/
def delivery (e : Engine) (d : Datagram) : Input :=
  { port := .event, code := rxCode e, operand := d }

/-- The input an instruction is written as (R104, R124). A packet is delivered framed; SERVE and FETCH
go to the command port (R105). -/
def encode : Instr → Input
  | .fileRequest e seq path => delivery e (frame 0x00#8 seq path)
  | .data e seq payload => delivery e (frame 0x01#8 seq payload)
  | .ack e seq next => delivery e (frame 0x02#8 seq (putBE32 next))
  | .fileNotFound e seq => delivery e (frame 0x03#8 seq [])
  | .fileNotFoundAck e seq => delivery e (frame 0x04#8 seq [])
  | .done e seq => delivery e (frame 0x05#8 seq [])
  | .doneAck e seq => delivery e (frame 0x06#8 seq [])
  | .reset => { port := .event, code := 0x01#8, operand := [] }
  | .serve => { port := .command, code := 0x10#8, operand := [] }
  | .fetch path => { port := .command, code := 0x11#8, operand := path }
  | .rxS d => delivery .sender d
  | .rxR d => delivery .receiver d
  | .timeoutS => { port := .event, code := 0x30#8, operand := [] }
  | .timeoutR => { port := .event, code := 0x31#8, operand := [] }
  | .drainEnd => { port := .event, code := 0x41#8, operand := [] }

/-- The `n` bytes of the number `w`, the lowest byte first. -/
def bytesOfWord : Nat → Nat → Bytes
  | 0, _ => []
  | n + 1, w => BitVec.ofNat 8 w :: bytesOfWord n (w / 256)

/-- R96: the engine that handles a packet kind. -/
def handlerOf (op : Byte) : Engine :=
  match op.toNat with
  | 0 | 2 | 4 | 6 => .sender
  | _ => .receiver

/-- The datagram of a packet row given by its opcode byte alone: sequence and payload zero, the payload
as long as R97 requires, the length and checksum fields completed by the framer (log 7). -/
def framedRow (op : Byte) : Datagram :=
  frame op 0#32 (List.replicate (if op.toNat = 2 then ackPayload else 0) 0#8)

/-- The datagram of a packet row: the row's byte framed when the word gives only the opcode, else the
bytes the word gives (log 7). -/
def rowDatagram (op : Byte) (rest : Bytes) : Datagram :=
  match rest with
  | [] => framedRow op
  | _ :: _ => op :: rest

/-- The input a table word stands for: the event whose code is byte 0 (R104) where there is one, else
the delivery of the packet whose opcode is byte 0 (R96) to the engine that handles it, else the
reserved event code itself (log 7). -/
def tableInput (nbits w : Nat) : Input :=
  match bytesOfWord (nbits / 8) w with
  | [] => { port := .event, code := 0#8, operand := [] }
  | c :: rest =>
    let ev : Input := { port := .event, code := c, operand := rest }
    match decode ev with
    | .ok _ => ev
    | .error _ =>
      match decodePacket (rowDatagram c rest) with
      | .ok _ => delivery (handlerOf c) (rowDatagram c rest)
      | .error _ => ev

/-- The instruction the decoder reads from a table word (log 7). -/
def decodeTableWord (nbits w : Nat) : Option Instr :=
  match decode (tableInput nbits w) with
  | .ok i => some i
  | .error _ => none

end Sys2Proof
end

