-- ==== Sys2Proof/Machine/State.lean ====
section
/-! DEFINITION. The state of one block instance, whole (10_state.md), the reasons a step can stop
(60_exceptions.md R272), and the state after reset (10_state.md R46; 70_reset_and_hazards.md R290, R291). -/

namespace Sys2Proof.Machine

open Sys2Proof

/-- R21: the sender's session states. Codes 6 and 7 are never written and have no constructor (log 15). -/
inductive SState where
  /-- 0: not serving. -/
  | idle
  /-- 1: waiting for a FILE_REQUEST. -/
  | awaitReq
  /-- 2: window sent, waiting for an ACK. -/
  | sendWait
  /-- 3: DONE sent, waiting for DONE_ACK. -/
  | doneWait
  /-- 4: FILE_NOT_FOUND sent, waiting for its acknowledgment. -/
  | missing
  /-- 5: the session has ended. -/
  | terminated
  deriving DecidableEq, Repr

/-- R31: the receiver's session states. -/
inductive RState where
  /-- 0: no session. -/
  | idle
  /-- 1: FILE_REQUEST sent, no DATA yet. -/
  | reqSent
  /-- 2: at least one DATA taken. -/
  | receiving
  /-- 3: DONE received and acknowledged; terminal. -/
  | flushedOnDone
  /-- 4: FILE_NOT_FOUND received and acknowledged; terminal. -/
  | abortedOnMissing
  /-- 5: retry cap reached; terminal. -/
  | failed
  deriving DecidableEq, Repr

/-- R257: the end statuses. Codes 9 to 15 have no constructor (log 15). -/
inductive EndStatus where
  /-- 0 -/
  | none
  /-- 1 -/
  | success
  /-- 2 -/
  | doneUnacked
  /-- 3 -/
  | missingAcked
  /-- 4 -/
  | missingUnacked
  /-- 5 -/
  | defensive
  /-- 6 -/
  | retryExhausted
  /-- 7 -/
  | incomplete
  /-- 8 -/
  | fileMissing
  deriving DecidableEq, Repr

/-- R256: the response codes of host commands. -/
inductive CmdCode where
  /-- 0 -/
  | ok
  /-- 1 -/
  | busy
  /-- 2 -/
  | badPath
  /-- 3 -/
  | unknown
  deriving DecidableEq, Repr

/-- R28, R36: what a buffer slot holds. `data` keeps the bytes a rule stored; those past `len` mean
nothing and no rule stores any (log 16). -/
structure Slot where
  len : SlotLen
  data : Bytes
  deriving DecidableEq, Repr

/-- The registers of the sender engine (R21 to R30). `none` is a register that holds no value (R46, log 1). -/
structure Sender where
  /-- `S.state` (R21). -/
  state : SState
  /-- `S.status` (R22). -/
  status : EndStatus
  /-- `S.windowStart` (R23). -/
  windowStart : SeqNo
  /-- `S.windowEnd` (R24). -/
  windowEnd : Bound
  /-- `S.maxSequence` (R25). -/
  maxSequence : Option Bound
  /-- `S.fileSize` (R26). -/
  fileSize : Option FileSize
  /-- `S.file` (R26). -/
  file : Option Bytes
  /-- `S.wbuf[0..4]` (R28). -/
  wbuf : List (Option Slot)
  /-- `S.nfCount` (R29). -/
  nfCount : BitVec 1
  /-- `S.toCount` (R29, log 14). -/
  toCount : Nat
  /-- `S.lastDrop` (R30). -/
  lastDrop : DropClass
  deriving DecidableEq, Repr

/-- The registers of the receiver engine (R31 to R38). -/
structure Receiver where
  /-- `R.state` (R31). -/
  state : RState
  /-- `R.status` (R32). -/
  status : EndStatus
  /-- `R.path` (R33). -/
  path : Option Bytes
  /-- `R.reqCount` (R34). -/
  reqCount : BitVec 1
  /-- `R.writeCursor` (R35). -/
  writeCursor : SeqNo
  /-- `R.rb` (R36): a slot is `some` exactly when its `valid` bit is 1. -/
  rb : List (Option Slot)
  /-- `R.bc` (R37, log 14). -/
  bc : Nat
  /-- `R.toCount` (R38, log 14). -/
  toCount : Nat
  /-- `R.lastDrop` (R38). -/
  lastDrop : DropClass
  deriving DecidableEq, Repr

/-- R106: the output alphabet. -/
inductive Output where
  /-- `TX(E, d)`: a datagram on engine `E`'s transmit port. -/
  | tx (e : Engine) (d : Datagram)
  /-- `SINK_OPEN(path)` -/
  | sinkOpen (path : Bytes)
  /-- `SINK_WRITE(bytes)` -/
  | sinkWrite (bytes : Bytes)
  /-- `SINK_CLOSE(status)` -/
  | sinkClose (status : EndStatus)
  /-- `SINK_ABORT` -/
  | sinkAbort
  /-- `END(E, status)` -/
  | endSession (e : Engine) (status : EndStatus)
  /-- `CMD_RESP(code)` -/
  | cmdResp (code : CmdCode)
  deriving DecidableEq, Repr

/-- One block instance. -/
structure State where
  /-- The read-only configuration (R40, log 2). -/
  cfg : Config
  /-- The sender engine. -/
  snd : Sender
  /-- The receiver engine. -/
  rcv : Receiver
  /-- The input events waiting, the next one first: receive ports, timers and host commands in the order
  the scheduler of R259 takes them (R45, log 4). -/
  inputs : List Input
  /-- Every output so far, in issue order (R45, R72, log 12). -/
  out : List Output
  deriving DecidableEq, Repr

/-- R46: a register that may hold no value. -/
inductive NoValueReg where
  | maxSequence
  | fileSize
  | file
  | wbuf (k : Nat)
  | path
  deriving DecidableEq, Repr

/-- R272: what faults. No rule of the spec does either in a state a run reaches. -/
inductive Fault where
  /-- A rule read a register that holds no value: R46, "A model represents it as absent and faults on a read"
  (also R272, D36, I17). Raised by the register reads of Machine/Ops.lean. Safe: the model stops where the
  spec says a model does. -/
  | noValue (reg : NoValueReg)
  /-- A `FileRead` outside the file (R63). Raised by `fileRead`. Safe, as above. -/
  | fileReadOutside (off n : Nat)
  deriving DecidableEq, Repr

/-- R272: what a model refuses. -/
inductive Refusal where
  /-- An instruction without a meaning; raised by `exec` alone. Safe. -/
  | notModelled (mnemonic : String)
  /-- R107: a reserved event code. Raised by the fetch. Safe: no input carries it. -/
  | reservedEventCode (code : Byte)
  /-- R104, R105: operand bytes where there is no operand (log 10). Raised by the fetch. Safe. -/
  | operandNotAllowed (code : Byte)
  /-- R104: an event that is not enabled has no step (log 11). Raised by TIMEOUT and DRAIN_END. Safe. -/
  | eventNotEnabled (code : Byte)
  /-- R128: a call of Encode outside its preconditions. Raised by `emitPacket`. Safe: no rule makes one. -/
  | encodeOutsideDomain
  deriving DecidableEq, Repr

/-- R46: the sender's registers after reset. -/
def Sender.reset : Sender :=
  { state := .idle, status := .none, windowStart := 0#32, windowEnd := 4#33, maxSequence := none,
    fileSize := none, file := none, wbuf := List.replicate windowSize none, nfCount := 0#1, toCount := 0,
    lastDrop := .none }

/-- R46: the receiver's registers after reset, with `RB_DEPTH` reorder slots. -/
def Receiver.reset (rbDepth : Nat) : Receiver :=
  { state := .idle, status := .none, path := none, reqCount := 0#1, writeCursor := 0#32,
    rb := List.replicate rbDepth none, bc := 0, toCount := 0, lastDrop := .none }

/-- R291: the machine right after reset: R46's values, nothing offered and nothing emitted yet
(log 2, log 4, log 12). -/
def State.reset : State :=
  { cfg := Config.standard, snd := Sender.reset, rcv := Receiver.reset Config.standard.rbDepth,
    inputs := [], out := [] }

end Sys2Proof.Machine
end

