-- ==== Sys2Proof/Machine/Ops.lean ====
section
/-! DEFINITION. The named operations over the ports and the registers (00_scope.md R14 to R16; 20_memory.md R62, R63,
R65, R76), and what stands where a processor takes an exception: the drop of a datagram, the refusal of a
command and the end of a session (60_exceptions.md R260). There is no trap entry and no return from one (R260,
R261). -/

namespace Sys2Proof.Machine

open Sys2Proof

/-- Why a procedure stops short of a next state (R272). -/
inductive Stop where
  | fault (f : Fault)
  | refused (r : Refusal)
  deriving DecidableEq, Repr

/-- A procedure's result: a value, or the stop that ends the step. -/
abbrev Res (α : Type) := Except Stop α

/-- The step outcome of a procedure. -/
def outcome (r : Res State) : Host.Outcome State Fault Refusal :=
  match r with
  | .ok s => .next s
  | .error (.fault f) => .fault f
  | .error (.refused r) => .refused r

/-- R14: write sender registers. -/
def State.mapS (s : State) (f : Sender → Sender) : State := { s with snd := f s.snd }

/-- R14: write receiver registers. -/
def State.mapR (s : State) (f : Receiver → Receiver) : State := { s with rcv := f s.rcv }

/-- R72: append one output, in issue order. -/
def State.output (s : State) (o : Output) : State := { s with out := s.out ++ [o] }

/-- R72: append several outputs, in issue order. -/
def State.outputs (s : State) (os : List Output) : State := { s with out := s.out ++ os }

/-- R46, R272: read a register that may hold no value; a read of an absent one is a fault. -/
def readReg {α : Type} (reg : NoValueReg) (v : Option α) : Res α :=
  match v with
  | some x => .ok x
  | none => .error (.fault (.noValue reg))

/-- The value of `f` at each element, in order, or the first stop. -/
def collect {α β : Type} (f : α → Res β) : List α → Res (List β)
  | [] => .ok []
  | a :: as =>
    match f a with
    | .error e => .error e
    | .ok b =>
      match collect f as with
      | .error e => .error e
      | .ok bs => .ok (b :: bs)

/-- R128, R272: `Encode`, refused outside its preconditions. -/
def encodeOrRefuse (op : Byte) (seq : Nat) (payload : Bytes) : Res Datagram :=
  match encodePacket op seq payload with
  | some d => .ok d
  | none => .error (.refused .encodeOutsideDomain)

/-- R15, R76: `Emit(E, Encode(op, seq, payload))`. -/
def emitPacket (e : Engine) (op : Byte) (seq : Nat) (payload : Bytes) (s : State) : Res State :=
  match encodeOrRefuse op seq payload with
  | .ok d => .ok (s.output (.tx e d))
  | .error e => .error e

/-- R62: `FS(path)`: the first entry of the path counts (log 3). -/
def lookupFile (fs : List (Bytes × Bytes)) (path : Bytes) : Option Bytes :=
  match fs with
  | [] => none
  | (p, img) :: rest => if p = path then some img else lookupFile rest path

/-- R62: `FileOpen(path)`: the image, or `none` for `NotFound`, which a file above `FILE_SIZE_MAX` is too. -/
def fileOpen (s : State) (path : Bytes) : Option Bytes :=
  match lookupFile s.cfg.fs path with
  | some img => if img.length ≤ fileSizeMax then some img else none
  | none => none

/-- R63: `FileRead(off, n)`, a fault outside the file (R272). -/
def fileRead (s : State) (off n : Nat) : Res Bytes :=
  match readReg .fileSize s.snd.fileSize with
  | .error e => .error e
  | .ok size =>
    match readReg .file s.snd.file with
    | .error e => .error e
    | .ok img =>
      if off + n ≤ size.toNat ∧ off + n ≤ img.length then .ok (slice img off n)
      else .error (.fault (.fileReadOutside off n))

/-- R158, R223: the meaningful bytes `data[0 .. len-1]` of a slot. -/
def Slot.bytes (slot : Slot) : Bytes := slot.data.take slot.len.toNat

/-- R156, R211: a slot filled with a payload. -/
def Slot.ofBytes (b : Bytes) : Slot := { len := BitVec.ofNat 10 b.length, data := b }

/-- R105, R256: the response to a host command. A response other than `OK` is the whole effect of a
refused command (R16 `refuse`). -/
def respond (code : CmdCode) (s : State) : State := s.output (.cmdResp code)

end Sys2Proof.Machine
end

