-- ==== Sys2Proof/Machine/Flags.lean ====
section
/-! DEFINITION. The flag-like state (10_state.md R39) and the codes of the registers that hold names: drop classes
(60_exceptions.md R250), end statuses (R257), responses (R256), session states (10_state.md R21, R31); the
operations that write `lastDrop`, `status` and `toCount`. -/

namespace Sys2Proof.Machine

open Sys2Proof

/-- R16, R250: `raise Drop(class)`: the class is recorded, nothing else changes and nothing is emitted. -/
def raiseDrop (e : Engine) (c : DropClass) (s : State) : State :=
  match e with
  | .sender => s.mapS fun x => { x with lastDrop := c }
  | .receiver => s.mapR fun x => { x with lastDrop := c }

/-- R150, R200: before a rule handles a valid packet, `toCount <- 0`. -/
def clearTimeouts (e : Engine) (s : State) : State :=
  match e with
  | .sender => s.mapS fun x => { x with toCount := 0 }
  | .receiver => s.mapR fun x => { x with toCount := 0 }

/-- R162, R226: `RETRY_CAP != none` and `toCount >= RETRY_CAP`. -/
def capReached (cap : Option Nat) (count : Nat) : Bool :=
  match cap with
  | none => false
  | some n => decide (n ≤ count)

/-- R165 `Terminate(st)` of the sender. -/
def terminateS (st : EndStatus) (s : State) : State :=
  (s.mapS fun x => { x with status := st, state := .terminated }).output (.endSession .sender st)

/-- R209 `Terminate(st, s')` of the receiver. -/
def terminateR (st : EndStatus) (st' : RState) (s : State) : State :=
  (s.mapR fun x => { x with status := st, state := st' }).output (.endSession .receiver st)

/-- R21: the 3-bit code of a sender state. -/
def SState.code : SState → BitVec 3
  | .idle => 0
  | .awaitReq => 1
  | .sendWait => 2
  | .doneWait => 3
  | .missing => 4
  | .terminated => 5

/-- R31: the 3-bit code of a receiver state. -/
def RState.code : RState → BitVec 3
  | .idle => 0
  | .reqSent => 1
  | .receiving => 2
  | .flushedOnDone => 3
  | .abortedOnMissing => 4
  | .failed => 5

/-- R257: the 4-bit code of an end status. -/
def EndStatus.code : EndStatus → BitVec 4
  | .none => 0
  | .success => 1
  | .doneUnacked => 2
  | .missingAcked => 3
  | .missingUnacked => 4
  | .defensive => 5
  | .retryExhausted => 6
  | .incomplete => 7
  | .fileMissing => 8

/-- R250: the 4-bit code of a drop class. -/
def dropCode : DropClass → BitVec 4
  | .none => 0
  | .short => 1
  | .long => 2
  | .corrupt => 3
  | .badOpcode => 4
  | .badLength => 5
  | .badPayload => 6
  | .ignored => 7
  | .capacity => 8
  | .duplicate => 9

/-- R256: the code of a command response. -/
def CmdCode.code : CmdCode → Nat
  | .ok => 0
  | .busy => 1
  | .badPath => 2
  | .unknown => 3

end Sys2Proof.Machine
end

