-- ==== Sys2Proof/Machine/Receiver.lean ====
section
/-! DEFINITION. The receiver engine's procedures and handlers (42_receiver.md R200 to R226). -/

namespace Sys2Proof.Machine

open Sys2Proof

/-- R204 `SendRequest()`. -/
def sendRequest (s : State) : Res State :=
  match readReg .path s.rcv.path with
  | .error e => .error e
  | .ok path => emitPacket .receiver 0x00#8 0 path s

/-- R223 `Flush()`: while slot 0 is valid, write it, advance the cursor, shift the slots. The fuel is
the number of slots, which bounds the loop. -/
def flushLoop : Nat → State → State
  | 0, s => s
  | n + 1, s =>
    match s.rcv.rb with
    | some slot :: rest =>
      flushLoop n ((s.output (.sinkWrite slot.bytes)).mapR fun x =>
        { x with writeCursor := x.writeCursor + 1#32, rb := rest ++ [none] })
    | none :: _ => s
    | [] => s

/-- R223. -/
def flush (s : State) : State := flushLoop s.rcv.rb.length s

/-- R224: how many slots from slot 0 on are valid. -/
def countValid : List (Option Slot) → Nat
  | some _ :: rest => countValid rest + 1
  | none :: _ => 0
  | [] => 0

/-- R224 `AckValue()`, an integer (R12). -/
def ackValue (s : State) : Nat := s.rcv.writeCursor.toNat + countValid s.rcv.rb

/-- R222 `AckStep()`. -/
def ackStep (s : State) : Res State :=
  match emitPacket .receiver 0x02#8 (ackValue (flush s)) (putBE32 (BitVec.ofNat 32 (ackValue (flush s))))
      (flush s) with
  | .error e => .error e
  | .ok s' => .ok (s'.mapR fun x => { x with bc := 0 })

/-- R220 `BatchCount()`: the epilogue of every RX step. -/
def batchCount (s : State) : Res State :=
  match s.rcv.state with
  | .receiving =>
    if s.rcv.bc + 1 = s.cfg.rxBatch then ackStep (s.mapR fun x => { x with bc := x.bc + 1 })
    else .ok (s.mapR fun x => { x with bc := x.bc + 1 })
  | .idle | .reqSent | .flushedOnDone | .abortedOnMissing | .failed => .ok s

/-- R211 `AcceptData(pkt)`: the checks in the order of R258. -/
def acceptData (seq : SeqNo) (payload : Bytes) (s : State) : State :=
  if seq = 0xFFFFFFFF#32 then raiseDrop .receiver .capacity s
  else if seq.toNat < s.rcv.writeCursor.toNat then raiseDrop .receiver .duplicate s
  else if s.cfg.rbDepth ≤ seq.toNat - s.rcv.writeCursor.toNat then raiseDrop .receiver .capacity s
  else if (s.rcv.rb.getD (seq.toNat - s.rcv.writeCursor.toNat) none).isSome then
    raiseDrop .receiver .duplicate s
  else
    s.mapR fun x =>
      { x with rb := x.rb.set (seq.toNat - x.writeCursor.toNat) (some (Slot.ofBytes payload)) }

/-- R207: DONE taken in `R_REQ_SENT` or `R_RECEIVING`. -/
def takeDone (seq : SeqNo) (s : State) : Res State :=
  match emitPacket .receiver 0x06#8 seq.toNat [] s with
  | .error e => .error e
  | .ok s' =>
    let st := if seq.toNat ≤ (flush s').rcv.writeCursor.toNat then EndStatus.success else EndStatus.incomplete
    .ok (terminateR st .flushedOnDone ((flush s').output (.sinkClose st)))

/-- R208: FILE_NOT_FOUND taken in `R_REQ_SENT` or `R_RECEIVING`. -/
def takeFileNotFound (seq : SeqNo) (s : State) : Res State :=
  match emitPacket .receiver 0x04#8 seq.toNat [] s with
  | .error e => .error e
  | .ok s' => .ok (terminateR .fileMissing .abortedOnMissing (s'.output .sinkAbort))

/-- R203: a valid packet with no handler in the receiver's state. -/
def ignoreR (s : State) : State := raiseDrop .receiver .ignored s

/-- R200: the handler of RX DATA (R206, R210). -/
def rHandleData (seq : SeqNo) (payload : Bytes) (s : State) : State :=
  match s.rcv.state with
  | .reqSent =>
    acceptData seq payload ((clearTimeouts .receiver s).mapR fun x => { x with state := .receiving })
  | .receiving => acceptData seq payload (clearTimeouts .receiver s)
  | .idle | .flushedOnDone | .abortedOnMissing | .failed => ignoreR s

/-- R200: the handler of RX DONE. -/
def rHandleDone (seq : SeqNo) (s : State) : Res State :=
  match s.rcv.state with
  | .reqSent | .receiving => takeDone seq (clearTimeouts .receiver s)
  | .idle | .flushedOnDone | .abortedOnMissing | .failed => .ok (ignoreR s)

/-- R200: the handler of RX FILE_NOT_FOUND. -/
def rHandleFileNotFound (seq : SeqNo) (s : State) : Res State :=
  match s.rcv.state with
  | .reqSent | .receiving => takeFileNotFound seq (clearTimeouts .receiver s)
  | .idle | .flushedOnDone | .abortedOnMissing | .failed => .ok (ignoreR s)

/-- R202, R220: a handler's result, then the batch epilogue. -/
def thenBatchCount (r : Res State) : Res State :=
  match r with
  | .error e => .error e
  | .ok s => batchCount s

/-- R200: RX DATA at the receiver, epilogue included. -/
def rTakeData (seq : SeqNo) (payload : Bytes) (s : State) : Res State :=
  thenBatchCount (.ok (rHandleData seq payload s))

/-- R200: RX DONE at the receiver, epilogue included. -/
def rTakeDone (seq : SeqNo) (s : State) : Res State := thenBatchCount (rHandleDone seq s)

/-- R200: RX FILE_NOT_FOUND at the receiver, epilogue included. -/
def rTakeFileNotFound (seq : SeqNo) (s : State) : Res State := thenBatchCount (rHandleFileNotFound seq s)

/-- R200, R203: RX of a kind no receiver state handles, epilogue included. -/
def rTakeUnexpected (s : State) : Res State := thenBatchCount (.ok (ignoreR s))

/-- R202: `RX(d)` at the receiver, epilogue included. -/
def rReceive (d : Datagram) (s : State) : Res State :=
  match decodePacket d with
  | .error c => thenBatchCount (.ok (raiseDrop .receiver c s))
  | .ok p =>
    match p.op.toNat with
    | 1 => rTakeData p.seq p.payload s
    | 3 => rTakeFileNotFound p.seq s
    | 5 => rTakeDone p.seq s
    | _ => rTakeUnexpected s

/-- R226 `TimeoutCount()`: the count, and whether the cap is reached. -/
def countTimeoutR (s : State) : State × Bool :=
  (s.mapR fun x => { x with toCount := x.toCount + 1 }, capReached s.cfg.retryCap (s.rcv.toCount + 1))

/-- R205, R225: the end of a receiver session at the retry cap. -/
def exhaustR (s : State) : State := terminateR .retryExhausted .failed (s.output .sinkAbort)

/-- R205: TIMEOUT in `R_REQ_SENT`. -/
def timeoutReqSent (s : State) : Res State :=
  if (countTimeoutR s).2 then .ok (exhaustR (countTimeoutR s).1)
  else if s.rcv.reqCount = 0#1 then
    match sendRequest (countTimeoutR s).1 with
    | .error e => .error e
    | .ok s' => .ok (s'.mapR fun x => { x with reqCount := 1#1 })
  else .ok (countTimeoutR s).1

/-- R225: TIMEOUT in `R_RECEIVING`. -/
def timeoutReceiving (s : State) : Res State :=
  if (countTimeoutR s).2 then .ok (exhaustR (countTimeoutR s).1) else ackStep (countTimeoutR s).1

/-- R104, R200: TIMEOUT of the receiver, enabled in the waiting states alone. -/
def rTimeout (s : State) : Res State :=
  match s.rcv.state with
  | .reqSent => timeoutReqSent s
  | .receiving => timeoutReceiving s
  | .idle | .flushedOnDone | .abortedOnMissing | .failed => .error (.refused (.eventNotEnabled 0x31#8))

/-- R104, R221: DRAIN_END, enabled in `R_RECEIVING` with `bc >= 1`. -/
def rDrainEnd (s : State) : Res State :=
  match s.rcv.state with
  | .receiving => if 1 ≤ s.rcv.bc then ackStep s else .error (.refused (.eventNotEnabled 0x41#8))
  | .idle | .reqSent | .flushedOnDone | .abortedOnMissing | .failed =>
    .error (.refused (.eventNotEnabled 0x41#8))

/-- R201: the registers FETCH writes before it sends the request. -/
def startFetch (path : Bytes) (s : State) : State :=
  s.mapR fun x =>
    { x with
      path := some path, writeCursor := 0#32, rb := List.replicate s.cfg.rbDepth none, bc := 0,
      reqCount := 0#1, toCount := 0, status := .none, lastDrop := .none }

/-- R201: FETCH taken: the request first, then the open of the sink. -/
def takeFetch (path : Bytes) (s : State) : Res State :=
  match sendRequest (startFetch path s) with
  | .error e => .error e
  | .ok s' =>
    .ok (respond .ok ((s'.output (.sinkOpen path)).mapR fun x => { x with state := .reqSent }))

/-- R201: FETCH. -/
def rFetch (path : Bytes) (s : State) : Res State :=
  match s.rcv.state with
  | .reqSent | .receiving => .ok (respond .busy s)
  | .idle | .flushedOnDone | .abortedOnMissing | .failed =>
    if chunkSize < path.length then .ok (respond .badPath s) else takeFetch path s

end Sys2Proof.Machine
end

