-- ==== Sys2Proof/Machine/Sender.lean ====
section
/-! DEFINITION. The sender engine's procedures and handlers (41_sender.md R150 to R168). -/

namespace Sys2Proof.Machine

open Sys2Proof

/-- `S.maxSequence` as an integer (R25). -/
def readMaxSequence (s : State) : Res Int :=
  match readReg .maxSequence s.snd.maxSequence with
  | .ok m => .ok m.toInt
  | .error e => .error e

/-- R49: how many chunks the window `start .. last` holds; 0 when it is empty. -/
def windowCount (start : Nat) (last : Int) : Nat := (last - start + 1).toNat

/-- R156, R160: chunk `seq` read from the open file into a slot. -/
def readChunk (s : State) (seq : Nat) : Res Slot :=
  match readReg .fileSize s.snd.fileSize with
  | .error e => .error e
  | .ok size =>
    match fileRead s (chunkOffset seq) (chunkLength size.toNat seq) with
    | .error e => .error e
    | .ok bytes => .ok (Slot.ofBytes bytes)

/-- A window slot; a slot that holds no value is a fault (R272). -/
def readSlot (wbuf : List (Option Slot)) (k : Nat) : Res Slot := readReg (.wbuf k) (wbuf.getD k none)

/-- R155 `Open(size)`, with the image. -/
def openFile (img : Bytes) (s : State) : State :=
  s.mapS fun x =>
    { x with
      fileSize := some (BitVec.ofNat 42 img.length)
      file := some img
      maxSequence := some (BitVec.ofInt 33 (maxSequenceOf img.length))
      windowStart := 0#32
      windowEnd := BitVec.ofInt 33 (windowEndOf 0 (maxSequenceOf img.length)) }

/-- R156 `Fill()`: slots `0 .. windowEnd - windowStart` are written, the others keep what they hold. -/
def fill (s : State) : Res State :=
  match collect (fun k => readChunk s (s.snd.windowStart.toNat + k))
      (List.range (windowCount s.snd.windowStart.toNat s.snd.windowEnd.toInt)) with
  | .error e => .error e
  | .ok slots => .ok (s.mapS fun x => { x with wbuf := slots.map some ++ x.wbuf.drop slots.length })

/-- R158: the DATA packet of window slot `k`. -/
def windowPacket (s : State) (k : Nat) : Res Output :=
  match readSlot s.snd.wbuf k with
  | .error e => .error e
  | .ok slot =>
    match encodeOrRefuse 0x01#8 (s.snd.windowStart.toNat + k) slot.bytes with
    | .error e => .error e
    | .ok d => .ok (.tx .sender d)

/-- R158 `TransmitWindow()`: one DATA per buffered chunk, in ascending order (D19). -/
def transmitWindow (s : State) : Res State :=
  match collect (windowPacket s)
      (List.range (windowCount s.snd.windowStart.toNat s.snd.windowEnd.toInt)) with
  | .error e => .error e
  | .ok os => .ok (s.outputs os)

/-- R157 `SendOrFinish()`: the comparison is on integers, so `0 > -1` (R169). -/
def sendOrFinish (s : State) : Res State :=
  match readMaxSequence s with
  | .error e => .error e
  | .ok m =>
    if m < (s.snd.windowStart.toNat : Int) then
      match emitPacket .sender 0x05#8 s.snd.windowStart.toNat [] s with
      | .error e => .error e
      | .ok s' => .ok (s'.mapS fun x => { x with state := .doneWait })
    else
      match transmitWindow s with
      | .error e => .error e
      | .ok s' => .ok (s'.mapS fun x => { x with state := .sendWait })

/-- R160: what slot `k` of the slid window holds: a kept chunk or a new read. -/
def refillSlot (oldStart : Nat) (oldEnd : Int) (s : State) (k : Nat) : Res Slot :=
  if ((s.snd.windowStart.toNat + k : Nat) : Int) ≤ oldEnd then
    readSlot s.snd.wbuf (s.snd.windowStart.toNat + k - oldStart)
  else readChunk s (s.snd.windowStart.toNat + k)

/-- R160 `Refill(oldStart, oldEnd)`: the slots past the window hold no value. -/
def refill (oldStart : Nat) (oldEnd : Int) (s : State) : Res State :=
  match collect (refillSlot oldStart oldEnd s)
      (List.range (windowCount s.snd.windowStart.toNat s.snd.windowEnd.toInt)) with
  | .error e => .error e
  | .ok slots =>
    .ok (s.mapS fun x =>
      { x with wbuf := slots.map some ++ List.replicate (windowSize - slots.length) none })

/-- R159: the advance of the window to `next`. -/
def advanceWindow (next : SeqNo) (m : Int) (s : State) : State :=
  s.mapS fun x =>
    { x with windowStart := next, windowEnd := BitVec.ofInt 33 (windowEndOf next.toNat m) }

/-- R159: an ACK taken in `S_SEND_WAIT`. -/
def takeAck (next : SeqNo) (s : State) : Res State :=
  if s.snd.windowStart.toNat < next.toNat then
    match readMaxSequence s with
    | .error e => .error e
    | .ok m =>
      match refill s.snd.windowStart.toNat s.snd.windowEnd.toInt (advanceWindow next m s) with
      | .error e => .error e
      | .ok s' => sendOrFinish s'
  else transmitWindow s

/-- R154: a FILE_REQUEST taken in `S_AWAIT_REQ`. -/
def takeRequest (path : Bytes) (s : State) : Res State :=
  match fileOpen s path with
  | none =>
    match emitPacket .sender 0x03#8 0 [] s with
    | .error e => .error e
    | .ok s' => .ok (s'.mapS fun x => { x with nfCount := 0#1, state := .missing })
  | some img =>
    match fill (openFile img s) with
    | .error e => .error e
    | .ok s' => sendOrFinish s'

/-- R166: the out-of-band acknowledgment: window bounds to their initial values, session ended. -/
def endDefensively (s : State) : State :=
  terminateS .defensive (s.mapS fun x => { x with windowStart := 0#32, windowEnd := 4#33 })

/-- R153: a valid packet with no handler in the sender's state. -/
def ignoreS (s : State) : State := raiseDrop .sender .ignored s

/-- R150: RX FILE_REQUEST at the sender. -/
def sTakeFileRequest (path : Bytes) (s : State) : Res State :=
  match s.snd.state with
  | .awaitReq => takeRequest path (clearTimeouts .sender s)
  | .idle | .sendWait | .doneWait | .missing | .terminated => .ok (ignoreS s)

/-- R150: RX ACK at the sender. -/
def sTakeAck (next : SeqNo) (s : State) : Res State :=
  match s.snd.state with
  | .sendWait => takeAck next (clearTimeouts .sender s)
  | .idle | .awaitReq | .doneWait | .missing | .terminated => .ok (ignoreS s)

/-- R150: RX DONE_ACK at the sender (R163, R166). -/
def sTakeDoneAck (s : State) : Res State :=
  match s.snd.state with
  | .sendWait => .ok (endDefensively (clearTimeouts .sender s))
  | .doneWait => .ok (terminateS .success (clearTimeouts .sender s))
  | .idle | .awaitReq | .missing | .terminated => .ok (ignoreS s)

/-- R150: RX FILE_NOT_FOUND_ACK at the sender (R166, R167). -/
def sTakeFileNotFoundAck (s : State) : Res State :=
  match s.snd.state with
  | .sendWait | .doneWait => .ok (endDefensively (clearTimeouts .sender s))
  | .missing => .ok (terminateS .missingAcked (clearTimeouts .sender s))
  | .idle | .awaitReq | .terminated => .ok (ignoreS s)

/-- R150: RX DATA, FILE_NOT_FOUND or DONE at the sender, which no state handles. -/
def sTakeUnexpected (s : State) : Res State := .ok (ignoreS s)

/-- R152: `RX(d)` at the sender: a datagram that does not decode is dropped, a packet goes to its
handler (R150). -/
def sReceive (d : Datagram) (s : State) : Res State :=
  match decodePacket d with
  | .error c => .ok (raiseDrop .sender c s)
  | .ok p =>
    match p.op.toNat with
    | 0 => sTakeFileRequest p.payload s
    | 2 => sTakeAck (ackNext p) s
    | 4 => sTakeFileNotFoundAck s
    | 6 => sTakeDoneAck s
    | _ => sTakeUnexpected s

/-- R162 `TimeoutCount()`: the count, and whether the cap is reached. -/
def countTimeoutS (s : State) : State × Bool :=
  (s.mapS fun x => { x with toCount := x.toCount + 1 }, capReached s.cfg.retryCap (s.snd.toCount + 1))

/-- R161: TIMEOUT in `S_SEND_WAIT`. -/
def timeoutSendWait (s : State) : Res State :=
  if (countTimeoutS s).2 then .ok (terminateS .retryExhausted (countTimeoutS s).1)
  else transmitWindow (countTimeoutS s).1

/-- R168: TIMEOUT in `S_MISSING`. -/
def timeoutMissing (s : State) : Res State :=
  if s.snd.nfCount = 0#1 then
    match emitPacket .sender 0x03#8 0 [] s with
    | .error e => .error e
    | .ok s' => .ok (s'.mapS fun x => { x with nfCount := 1#1 })
  else .ok (terminateS .missingUnacked s)

/-- R104, R150: TIMEOUT of the sender, enabled in the waiting states alone. -/
def sTimeout (s : State) : Res State :=
  match s.snd.state with
  | .sendWait => timeoutSendWait s
  | .doneWait => .ok (terminateS .doneUnacked s)
  | .missing => timeoutMissing s
  | .idle | .awaitReq | .terminated => .error (.refused (.eventNotEnabled 0x30#8))

/-- R151: SERVE. -/
def sServe (s : State) : Res State :=
  match s.snd.state with
  | .awaitReq | .sendWait | .doneWait | .missing => .ok (respond .busy s)
  | .idle | .terminated =>
    .ok (respond .ok (s.mapS fun x =>
      { x with
        windowStart := 0#32, windowEnd := 4#33, maxSequence := none, fileSize := none, file := none,
        wbuf := List.replicate windowSize none, nfCount := 0#1, toCount := 0, status := .none,
        lastDrop := .none, state := .awaitReq }))

end Sys2Proof.Machine
end

