-- ==== Sys2Proof/Machine/Events.lean ====
section
/-! DEFINITION. The meanings of the eight input events (30_encoding.md R104; 70_reset_and_hazards.md R290). -/

namespace Sys2Proof.Machine

open Sys2Proof

/-- R290: RESET puts every register of both engines to its reset value and emits nothing; the channel,
the sink and the file store are untouched (R294). -/
def execReset (s : State) : Host.Outcome State Fault Refusal :=
  .next { s with snd := Sender.reset, rcv := Receiver.reset s.cfg.rbDepth }

/-- R151: SERVE. -/
def execServe (s : State) : Host.Outcome State Fault Refusal := outcome (sServe s)

/-- R201: FETCH. -/
def execFetch (path : Bytes) (s : State) : Host.Outcome State Fault Refusal := outcome (rFetch path s)

/-- R152: RX of the sender. -/
def execRxS (d : Datagram) (s : State) : Host.Outcome State Fault Refusal := outcome (sReceive d s)

/-- R202: RX of the receiver. -/
def execRxR (d : Datagram) (s : State) : Host.Outcome State Fault Refusal := outcome (rReceive d s)

/-- R161, R164, R168: TIMEOUT of the sender. -/
def execTimeoutS (s : State) : Host.Outcome State Fault Refusal := outcome (sTimeout s)

/-- R205, R225: TIMEOUT of the receiver. -/
def execTimeoutR (s : State) : Host.Outcome State Fault Refusal := outcome (rTimeout s)

/-- R221: DRAIN_END. -/
def execDrainEnd (s : State) : Host.Outcome State Fault Refusal := outcome (rDrainEnd s)

end Sys2Proof.Machine
end

