-- ==== Sys2Proof/Machine/Packets.lean ====
section
/-! DEFINITION. The meanings of the seven packet kinds: the RX step of an engine that takes the valid packet
(30_encoding.md R96; 41_sender.md R150; 42_receiver.md R200). The sequence field is read where R98 says so. -/

namespace Sys2Proof.Machine

open Sys2Proof

/-- FILE_REQUEST: R154 in `S_AWAIT_REQ`; ignored elsewhere (R153, R203). -/
def execFileRequest (e : Engine) (_seq : SeqNo) (path : Bytes) (s : State) : Host.Outcome State Fault Refusal :=
  match e with
  | .sender => outcome (sTakeFileRequest path s)
  | .receiver => outcome (rTakeUnexpected s)

/-- DATA: R206 in `R_REQ_SENT`, R210 in `R_RECEIVING`; ignored elsewhere. -/
def execData (e : Engine) (seq : SeqNo) (payload : Bytes) (s : State) : Host.Outcome State Fault Refusal :=
  match e with
  | .sender => outcome (sTakeUnexpected s)
  | .receiver => outcome (rTakeData seq payload s)

/-- ACK: R159 in `S_SEND_WAIT`; ignored elsewhere. The sequence field is not read. -/
def execAck (e : Engine) (_seq : SeqNo) (next : SeqNo) (s : State) : Host.Outcome State Fault Refusal :=
  match e with
  | .sender => outcome (sTakeAck next s)
  | .receiver => outcome (rTakeUnexpected s)

/-- FILE_NOT_FOUND: R208 in `R_REQ_SENT` and `R_RECEIVING`; ignored elsewhere. -/
def execFileNotFound (e : Engine) (seq : SeqNo) (s : State) : Host.Outcome State Fault Refusal :=
  match e with
  | .sender => outcome (sTakeUnexpected s)
  | .receiver => outcome (rTakeFileNotFound seq s)

/-- FILE_NOT_FOUND_ACK: R166 in `S_SEND_WAIT` and `S_DONE_WAIT`, R167 in `S_MISSING`; ignored elsewhere. -/
def execFileNotFoundAck (e : Engine) (_seq : SeqNo) (s : State) : Host.Outcome State Fault Refusal :=
  match e with
  | .sender => outcome (sTakeFileNotFoundAck s)
  | .receiver => outcome (rTakeUnexpected s)

/-- DONE: R207 in `R_REQ_SENT` and `R_RECEIVING`; ignored elsewhere. -/
def execDone (e : Engine) (seq : SeqNo) (s : State) : Host.Outcome State Fault Refusal :=
  match e with
  | .sender => outcome (sTakeUnexpected s)
  | .receiver => outcome (rTakeDone seq s)

/-- DONE_ACK: R163 in `S_DONE_WAIT`, R166 in `S_SEND_WAIT`; ignored elsewhere. -/
def execDoneAck (e : Engine) (_seq : SeqNo) (s : State) : Host.Outcome State Fault Refusal :=
  match e with
  | .sender => outcome (sTakeDoneAck s)
  | .receiver => outcome (rTakeUnexpected s)

end Sys2Proof.Machine
end

