-- ==== Sys2Proof/Machine/Dispatch.lean ====
section
/-! DEFINITION. One arm per instruction. -/

namespace Sys2Proof.Machine

open Sys2Proof

def exec (i : Instr) (s : State) : Host.Outcome State Fault Refusal :=
  match i with
  | .fileRequest e seq path => Sys2Proof.Machine.execFileRequest e seq path s
  | .data e seq payload => Sys2Proof.Machine.execData e seq payload s
  | .ack e seq next => Sys2Proof.Machine.execAck e seq next s
  | .fileNotFound e seq => Sys2Proof.Machine.execFileNotFound e seq s
  | .fileNotFoundAck e seq => Sys2Proof.Machine.execFileNotFoundAck e seq s
  | .done e seq => Sys2Proof.Machine.execDone e seq s
  | .doneAck e seq => Sys2Proof.Machine.execDoneAck e seq s
  | .reset => Sys2Proof.Machine.execReset s
  | .serve => Sys2Proof.Machine.execServe s
  | .fetch path => Sys2Proof.Machine.execFetch path s
  | .rxS d => Sys2Proof.Machine.execRxS d s
  | .rxR d => Sys2Proof.Machine.execRxR d s
  | .timeoutS => Sys2Proof.Machine.execTimeoutS s
  | .timeoutR => Sys2Proof.Machine.execTimeoutR s
  | .drainEnd => Sys2Proof.Machine.execDrainEnd s

end Sys2Proof.Machine
end

