-- ==== Sys2Proof/Machine/Fetch.lean ====
section
/-! DEFINITION. Taking the next input (20_memory.md R70; 60_exceptions.md R259), and an input that is no instruction. -/

namespace Sys2Proof.Machine

open Sys2Proof

/-- R70, R259: the next input event and the state without it; `none` when nothing is offered (log 5). -/
def takeInput (s : State) : Option (Input × State) :=
  match s.inputs with
  | [] => none
  | w :: rest => some (w, { s with inputs := rest })

/-- An input that is no instruction: a command code other than 0x10 and 0x11 is answered `CMD_UNKNOWN`
(R105, R256); a reserved event code and an operand where there is none are refused (R107, log 9, log 10). -/
def rejectInput (e : DecodeError) (s : State) : Host.Outcome State Fault Refusal :=
  match e with
  | .unknownCommand _ => .next (respond .unknown s)
  | .reservedEvent code => .refused (.reservedEventCode code)
  | .operandNotAllowed code => .refused (.operandNotAllowed code)

end Sys2Proof.Machine
end

