-- ==== Sys2Proof/Machine/Step.lean ====
section
/-! DEFINITION. One step: one input event, whole (20_memory.md R70). -/

namespace Sys2Proof.Machine

open Sys2Proof

/-- R70: take the next input and process it in one atomic step. With nothing offered the block waits
(R271, log 5). -/
def step (s : State) : Host.Outcome State Fault Refusal :=
  match takeInput s with
  | none => .next s
  | some (w, s') =>
    match decode w with
    | .ok i => exec i s'
    | .error e => rejectInput e s'

/-- The state with a table word's input offered first (log 6, log 7). -/
def State.withFetchWord (s : State) (nbits w : Nat) : State :=
  { s with inputs := tableInput nbits w :: s.inputs }

end Sys2Proof.Machine
end

