-- ==== Sys2Proof/Machine/View.lean ====
section
/-! DEFINITION. What is computed from the state and not stored in it: the host's status view (10_state.md R41, R42), the
seen-set (R43), the timers (R44; 60_exceptions.md R266), the enabled events (30_encoding.md R104), the ports
(10_state.md R45) and the output sink (20_memory.md R65). -/

namespace Sys2Proof.Machine

open Sys2Proof

/-- R44: the waiting states, in which the engine's retransmit timer is armed. -/
def timerArmed (e : Engine) (s : State) : Bool :=
  match e with
  | .sender =>
    match s.snd.state with
    | .sendWait | .doneWait | .missing => true
    | .idle | .awaitReq | .terminated => false
  | .receiver =>
    match s.rcv.state with
    | .reqSent | .receiving => true
    | .idle | .flushedOnDone | .abortedOnMissing | .failed => false

/-- R266: the period of the armed timer, in milliseconds. Timing only: no rule reads it (R303, log 21). -/
def timerPeriod (e : Engine) (s : State) : Option Nat :=
  if timerArmed e s then
    match e with
    | .sender => some s.cfg.tSteady
    | .receiver => if s.rcv.state = .reqSent then some s.cfg.tReq else some s.cfg.tSteady
  else none

/-- R104: the "enabled when" column. A packet is an RX, which is always enabled. -/
def enabled (i : Instr) (s : State) : Bool :=
  match i with
  | .timeoutS => timerArmed .sender s
  | .timeoutR => timerArmed .receiver s
  | .drainEnd => decide (s.rcv.state = .receiving ∧ 1 ≤ s.rcv.bc)
  | .fileRequest _ _ _ | .data _ _ _ | .ack _ _ _ | .fileNotFound _ _ | .fileNotFoundAck _ _ | .done _ _
  | .doneAck _ _ | .reset | .serve | .fetch _ | .rxS _ | .rxR _ => true

/-- R43: `n` is in the seen-set. -/
def seen (s : State) (n : Nat) : Bool :=
  if n < s.rcv.writeCursor.toNat then true
  else (s.rcv.rb.getD (n - s.rcv.writeCursor.toNat) none).isSome

/-- The datagram of an output on engine `e`'s transmit port. -/
def txOf (e : Engine) : Output → Option Datagram
  | .tx e' d => if e' = e then some d else none
  | .sinkOpen _ | .sinkWrite _ | .sinkClose _ | .sinkAbort | .endSession _ _ | .cmdResp _ => none

/-- R45, R76: everything engine `e` has put on its transmit port, oldest first. -/
def txPort (e : Engine) (s : State) : List Datagram := s.out.filterMap (txOf e)

/-- The operation an output performs on the sink. -/
def isSinkOp : Output → Bool
  | .sinkOpen _ | .sinkWrite _ | .sinkClose _ | .sinkAbort => true
  | .tx _ _ | .endSession _ _ | .cmdResp _ => false

/-- R45, R65: the sink operations, in issue order. -/
def sinkPort (s : State) : List Output := s.out.filter isSinkOp

/-- The end status of an END indication of engine `e`. -/
def endOf (e : Engine) : Output → Option EndStatus
  | .endSession e' st => if e' = e then some st else none
  | .tx _ _ | .sinkOpen _ | .sinkWrite _ | .sinkClose _ | .sinkAbort | .cmdResp _ => none

/-- R264: the END indications of engine `e`, oldest first. -/
def endIndications (e : Engine) (s : State) : List EndStatus := s.out.filterMap (endOf e)

/-- The code of a command response. -/
def respOf : Output → Option CmdCode
  | .cmdResp c => some c
  | .tx _ _ | .sinkOpen _ | .sinkWrite _ | .sinkClose _ | .sinkAbort | .endSession _ _ => none

/-- R256: the command responses, oldest first. -/
def cmdResponses (s : State) : List CmdCode := s.out.filterMap respOf

/-- The datagram of an RX input of engine `e`. -/
def rxOf (e : Engine) (w : Input) : Option Datagram :=
  if w.port = .event ∧ w.code = (match e with | .sender => 0x20#8 | .receiver => 0x21#8) then some w.operand
  else none

/-- R45, R261: the datagrams waiting on engine `e`'s receive port. -/
def rxPort (e : Engine) (s : State) : List Datagram := s.inputs.filterMap (rxOf e)

/-- R65: the output sink. -/
inductive SinkView where
  /-- No `SinkOpen` yet. -/
  | neverOpened
  /-- Open: the bytes appended so far. -/
  | opened (path bytes : Bytes)
  /-- Closed by `SinkClose`. -/
  | closed (path bytes : Bytes) (status : EndStatus)
  /-- After `SinkAbort` (I9), or open when RESET came (I10): the contents are not specified (log 13). -/
  | unspecified
  deriving DecidableEq, Repr

/-- R65: the effect of one output on the sink. -/
def sinkAfter (v : SinkView) (o : Output) : SinkView :=
  match o with
  | .sinkOpen path => .opened path []
  | .sinkWrite b =>
    match v with
    | .opened path bytes => .opened path (bytes ++ b)
    | .neverOpened | .closed _ _ _ | .unspecified => v
  | .sinkClose st =>
    match v with
    | .opened path bytes => .closed path bytes st
    | .neverOpened | .closed _ _ _ | .unspecified => v
  | .sinkAbort =>
    match v with
    | .opened _ _ => .unspecified
    | .neverOpened | .closed _ _ _ | .unspecified => v
  | .tx _ _ | .endSession _ _ | .cmdResp _ => v

/-- R65: the sink after every operation issued so far. -/
def sinkLog (s : State) : SinkView := s.out.foldl sinkAfter .neverOpened

/-- R65, R294: the sink as a host may rely on it. A sink still open while the receiver is idle was left
so by a RESET. -/
def sinkView (s : State) : SinkView :=
  match sinkLog s with
  | .opened path bytes => if s.rcv.state = .idle then .unspecified else .opened path bytes
  | .neverOpened => .neverOpened
  | .closed path bytes st => .closed path bytes st
  | .unspecified => .unspecified

/-- R41, R42: the fields of the status view: every register of R21 to R38, by name. R42's table gives the
fields that hold a number; the byte sequences and the slots are R41's "every register of this file". -/
inductive ViewField where
  | sState | sStatus | sWindowStart | sWindowEnd | sMaxSequence | sFileSize | sNfCount | sToCount | sLastDrop
  | rState | rStatus | rWriteCursor | rReqCount | rBc | rToCount | rLastDrop
  | rbValid (k : Nat)
  /-- `S.file` (R26). -/
  | sFile
  /-- `S.wbuf[k].len` (R28). -/
  | wbufLen (k : Nat)
  /-- `S.wbuf[k].data` (R28). -/
  | wbufData (k : Nat)
  /-- `R.path` (R33). -/
  | rPath
  /-- `R.rb[k].len` (R36). -/
  | rbLen (k : Nat)
  /-- `R.rb[k].data` (R36). -/
  | rbData (k : Nat)
  deriving DecidableEq, Repr

/-- R41: what a field of the view reads. -/
inductive ViewValue where
  | num (v : Int)
  | bytes (b : Bytes)
  deriving DecidableEq, Repr

/-- What slot `k` of a buffer holds; `none` where it holds no value or there is no such slot. -/
def slotAt (slots : List (Option Slot)) (k : Nat) : Option Slot := slots.getD k none

/-- A slot's length, as the view shows it. -/
def slotLenView (slots : List (Option Slot)) (k : Nat) : Option ViewValue :=
  (slotAt slots k).map fun slot => .num slot.len.toNat

/-- A slot's meaningful bytes `data[0 .. len-1]` (R28, log 16), as the view shows them. -/
def slotDataView (slots : List (Option Slot)) (k : Nat) : Option ViewValue :=
  (slotAt slots k).map fun slot => .bytes slot.bytes

/-- R41, R42: a register's value as the host reads it, between steps, by its name; `none` where the
register holds no value or there is no such slot. A read of the view changes nothing and never faults. -/
def statusView (f : ViewField) (s : State) : Option ViewValue :=
  match f with
  | .sState => some (.num s.snd.state.code.toNat)
  | .sStatus => some (.num s.snd.status.code.toNat)
  | .sWindowStart => some (.num s.snd.windowStart.toNat)
  | .sWindowEnd => some (.num s.snd.windowEnd.toInt)
  | .sMaxSequence => s.snd.maxSequence.map fun m => .num m.toInt
  | .sFileSize => s.snd.fileSize.map fun n => .num n.toNat
  | .sNfCount => some (.num s.snd.nfCount.toNat)
  | .sToCount => some (.num s.snd.toCount)
  | .sLastDrop => some (.num (dropCode s.snd.lastDrop).toNat)
  | .rState => some (.num s.rcv.state.code.toNat)
  | .rStatus => some (.num s.rcv.status.code.toNat)
  | .rWriteCursor => some (.num s.rcv.writeCursor.toNat)
  | .rReqCount => some (.num s.rcv.reqCount.toNat)
  | .rBc => some (.num s.rcv.bc)
  | .rToCount => some (.num s.rcv.toCount)
  | .rLastDrop => some (.num (dropCode s.rcv.lastDrop).toNat)
  | .rbValid k => (s.rcv.rb[k]?).map fun slot => .num (if slot.isSome then 1 else 0)
  | .sFile => s.snd.file.map .bytes
  | .wbufLen k => slotLenView s.snd.wbuf k
  | .wbufData k => slotDataView s.snd.wbuf k
  | .rPath => s.rcv.path.map .bytes
  | .rbLen k => slotLenView s.rcv.rb k
  | .rbData k => slotDataView s.rcv.rb k

/-- `ceil(log2(n + 1))`: the bits that hold 0 .. n. -/
def bitsFor (n : Nat) : Nat := if n = 0 then 0 else Nat.log2 n + 1

/-- R42: the width of a field in bits (R28, R36 for a slot's length); `none` where R29 and R38 give a count
none, under `RETRY_CAP = none`, and for a byte sequence. -/
def viewBits (f : ViewField) (c : Config) : Option Nat :=
  match f with
  | .sState | .rState => some 3
  | .sStatus | .sLastDrop | .rStatus | .rLastDrop => some 4
  | .sWindowStart | .rWriteCursor => some 32
  | .sWindowEnd | .sMaxSequence => some 33
  | .sFileSize => some 42
  | .sNfCount | .rReqCount | .rbValid _ => some 1
  | .sToCount | .rToCount => c.retryCap.map bitsFor
  | .rBc => some (bitsFor c.rxBatch)
  | .wbufLen _ | .rbLen _ => some 10
  | .sFile | .wbufData _ | .rPath | .rbData _ => none

/-- R42: the legal values of a field that reads a number; R28, R36 for a slot's length. -/
def viewLegalNum (f : ViewField) (c : Config) (v : Int) : Bool :=
  match f with
  | .sState | .rState => decide (0 ≤ v ∧ v ≤ 5)
  | .sStatus | .rStatus => decide (0 ≤ v ∧ v ≤ 8)
  | .sLastDrop | .rLastDrop => decide (0 ≤ v ∧ v ≤ 9)
  | .sWindowStart | .rWriteCursor => decide (0 ≤ v ∧ v ≤ 2 ^ 32 - 1)
  | .sWindowEnd | .sMaxSequence => decide (-1 ≤ v ∧ v ≤ 2 ^ 32 - 2)
  | .sFileSize => decide (0 ≤ v ∧ v ≤ (fileSizeMax : Int))
  | .sNfCount | .rReqCount | .rbValid _ => decide (0 ≤ v ∧ v ≤ 1)
  | .sToCount | .rToCount =>
    match c.retryCap with
    | none => decide (0 ≤ v)
    | some n => decide (0 ≤ v ∧ v ≤ (n : Int))
  | .rBc => decide (0 ≤ v ∧ v ≤ (c.rxBatch : Int))
  | .wbufLen _ | .rbLen _ => decide (0 ≤ v ∧ v ≤ (chunkSize : Int))
  | .sFile | .wbufData _ | .rPath | .rbData _ => false

/-- R26, R28, R33, R36: the legal lengths of a field that reads a byte sequence. -/
def viewLegalLength (f : ViewField) (n : Nat) : Bool :=
  match f with
  | .sFile => decide (n ≤ fileSizeMax)
  | .wbufData _ | .rPath | .rbData _ => decide (n ≤ chunkSize)
  | .sState | .sStatus | .sWindowStart | .sWindowEnd | .sMaxSequence | .sFileSize | .sNfCount | .sToCount | .sLastDrop
  | .rState | .rStatus | .rWriteCursor | .rReqCount | .rBc | .rToCount | .rLastDrop | .rbValid _ | .wbufLen _
  | .rbLen _ => false

/-- R41, R42: the legal values of a field. -/
def viewLegal (f : ViewField) (c : Config) (v : ViewValue) : Bool :=
  match v with
  | .num n => viewLegalNum f c n
  | .bytes b => viewLegalLength f b.length

/-- R42, R46: a field's reset value; `none` for "no value". -/
def viewReset (f : ViewField) (c : Config) : Option ViewValue :=
  match f with
  | .sWindowEnd => some (.num 4)
  | .sMaxSequence | .sFileSize | .sFile | .wbufLen _ | .wbufData _ | .rPath | .rbLen _ | .rbData _ => none
  | .rbValid k => if k < c.rbDepth then some (.num 0) else none
  | .sState | .sStatus | .sWindowStart | .sNfCount | .sToCount | .sLastDrop | .rState | .rStatus | .rWriteCursor
  | .rReqCount | .rBc | .rToCount | .rLastDrop => some (.num 0)

end Sys2Proof.Machine
end

