-- ==== Sys2Proof/Machine/Link.lean ====
section
/-! DEFINITION. A transfer: the sender engine of instance `a` linked to the receiver engine of instance `b` through the
channel (00_scope.md R10; 20_memory.md R77 to R80; 70_reset_and_hazards.md R292, R305, R306). Beside the one-core
machine of Step.lean, not part of it (log 20). -/

namespace Sys2Proof.Machine

open Sys2Proof

/-- R10, R77: the two instances of a transfer. -/
structure Link where
  a : State
  b : State
  deriving DecidableEq, Repr

/-- R78: the parameter `CHANNEL_CORRUPTION`. -/
inductive Corruption where
  | detectable
  | arbitrary
  deriving DecidableEq, Repr

/-- R78: `d` is a corrupted copy of `o`. -/
def corruptedCopy (mode : Corruption) (o d : Datagram) : Prop :=
  match mode with
  | .detectable => d ≠ o ∧ (decodePacket d).isOk = false
  | .arbitrary => True

/-- R78: the channel may deliver `d` when `sent` has been emitted: an emitted datagram, any number of
times and in any order, or a corrupted copy of one. -/
def mayDeliver (mode : Corruption) (sent : List Datagram) (d : Datagram) : Prop :=
  d ∈ sent ∨ ∃ o ∈ sent, corruptedCopy mode o d

/-- The events of a running transfer: a delivery in either direction, a timer, the end of a drain. The
session's commands come before it (R292), and a RESET or a new session is outside it (R300, log 20). -/
inductive LinkEvent where
  | toReceiver (d : Datagram)
  | toSender (d : Datagram)
  | timeoutS
  | timeoutR
  | drainEnd
  deriving DecidableEq, Repr

/-- R77: the instruction an event is, for the engine of the transfer that takes it. -/
def LinkEvent.instr : LinkEvent → Instr
  | .toReceiver d => .rxR d
  | .toSender d => .rxS d
  | .timeoutS => .timeoutS
  | .timeoutR => .timeoutR
  | .drainEnd => .drainEnd

/-- The outcome of a step of `a`. -/
def Link.onA (l : Link) (r : Host.Outcome State Fault Refusal) : Host.Outcome Link Fault Refusal :=
  match r with
  | .next a => .next { l with a := a }
  | .fault f => .fault f
  | .refused r => .refused r

/-- The outcome of a step of `b`. -/
def Link.onB (l : Link) (r : Host.Outcome State Fault Refusal) : Host.Outcome Link Fault Refusal :=
  match r with
  | .next b => .next { l with b := b }
  | .fault f => .fault f
  | .refused r => .refused r

/-- R259, R269: one step of one agent of the transfer. -/
def Link.step (l : Link) (ev : LinkEvent) : Host.Outcome Link Fault Refusal :=
  match ev with
  | .toReceiver _ | .timeoutR | .drainEnd => l.onB (exec ev.instr l.b)
  | .toSender _ | .timeoutS => l.onA (exec ev.instr l.a)

/-- R78, R104: the environment may offer `ev`. -/
def Link.offered (mode : Corruption) (l : Link) (ev : LinkEvent) : Prop :=
  match ev with
  | .toReceiver d => mayDeliver mode (txPort .sender l.a) d
  | .toSender d => mayDeliver mode (txPort .receiver l.b) d
  | .timeoutS => enabled .timeoutS l.a = true
  | .timeoutR => enabled .timeoutR l.b = true
  | .drainEnd => enabled .drainEnd l.b = true

/-- R292 steps 1 to 4: an instance with its parameters and file store, after RESET. -/
def freshState (c : Config) : State :=
  { State.reset with cfg := c, rcv := Receiver.reset c.rbDepth }

/-- R80 `CHANNEL_CLEAN`: the channel holds no datagram. -/
def Link.channelClean (l : Link) : Prop := txPort .sender l.a = [] ∧ txPort .receiver l.b = []

/-- R292: `l` is a transfer of `path` launched on fresh instances: SERVE on `a`, then FETCH on `b`. -/
def Link.launched (ca cb : Config) (path : Bytes) (l : Link) : Prop :=
  exec .serve (freshState ca) = .next l.a ∧ exec (.fetch path) (freshState cb) = .next l.b

/-- R259: `l'` is reached from `l` by offered events, in any order. -/
inductive Link.Run (mode : Corruption) (l : Link) : Link → Prop where
  | start : Link.Run mode l l
  | next (m n : Link) (ev : LinkEvent) :
      Link.Run mode l m → m.offered mode ev → m.step ev = .next n → Link.Run mode l n

/-- R306: the first such state is the end of the run. -/
def Link.ended (l : Link) : Bool :=
  decide (l.a.snd.state = .terminated) &&
    (match l.b.rcv.state with
     | .flushedOnDone | .abortedOnMissing | .failed => true
     | .idle | .reqSent | .receiving => false)

/-- R306: the observation of a run. -/
def Link.observation (l : Link) : EndStatus × EndStatus × SinkView :=
  (l.a.snd.status, l.b.rcv.status, sinkView l.b)

/-- An infinite run: `l n` is the link before event `n`. -/
def infiniteRun (mode : Corruption) (l : Nat → Link) (ev : Nat → LinkEvent) : Prop :=
  ∀ n, (l n).offered mode (ev n) ∧ (l n).step (ev n) = .next (l (n + 1))

/-- R79 `CHANNEL_FAIR`: a datagram emitted infinitely often is delivered unchanged infinitely often. -/
def channelFair (l : Nat → Link) (ev : Nat → LinkEvent) : Prop :=
  (∀ d, (∀ n, ∃ m, n ≤ m ∧ (txPort .sender (l m).a).count d < (txPort .sender (l (m + 1)).a).count d) →
      ∀ n, ∃ m, n ≤ m ∧ ev m = .toReceiver d) ∧
  (∀ d, (∀ n, ∃ m, n ≤ m ∧ (txPort .receiver (l m).b).count d < (txPort .receiver (l (m + 1)).b).count d) →
      ∀ n, ∃ m, n ≤ m ∧ ev m = .toSender d)

/-- R305: the scheduler is weakly fair to the timers and the drain end, the events no channel loses. -/
def weaklyFair (mode : Corruption) (l : Nat → Link) (ev : Nat → LinkEvent) : Prop :=
  ∀ e : LinkEvent, e = .timeoutS ∨ e = .timeoutR ∨ e = .drainEnd →
    (∃ n, ∀ m, n ≤ m → (l m).offered mode e) → ∀ n, ∃ m, n ≤ m ∧ ev m = e

/-- The channel duplicates finitely: an emitted datagram that an engine stops emitting is at some time no
longer delivered to the other. DESIGN CHOICE (log 20): R78 allows endless duplicates, and R305 needs this
premise where `RETRY_CAP` is not none, for every old ACK and DATA taken clears the count of timeouts. -/
def duplicatesFinitely (l : Nat → Link) (ev : Nat → LinkEvent) : Prop :=
  (∀ d n, d ∈ txPort .sender (l n).a →
      (∀ m, n ≤ m → (txPort .sender (l m).a).count d = (txPort .sender (l n).a).count d) →
      ∃ k, ∀ m, k ≤ m → ev m ≠ .toReceiver d) ∧
  (∀ d n, d ∈ txPort .receiver (l n).b →
      (∀ m, n ≤ m → (txPort .receiver (l m).b).count d = (txPort .receiver (l n).b).count d) →
      ∃ k, ∀ m, k ≤ m → ev m ≠ .toSender d)

/-- The sender emits a packet of opcode `op` in the run. -/
def senderEmits (op : Byte) (l : Nat → Link) : Prop :=
  ∃ n d p, d ∈ txPort .sender (l n).a ∧ decodePacket d = .ok p ∧ p.op = op

/-- A packet of opcode `op` is delivered to the sender in the run. -/
def senderTakes (op : Byte) (ev : Nat → LinkEvent) : Prop :=
  ∃ n d p, ev n = .toSender d ∧ decodePacket d = .ok p ∧ p.op = op

/-- A packet of opcode `op` is delivered to the receiver in the run. -/
def receiverTakes (op : Byte) (ev : Nat → LinkEvent) : Prop :=
  ∃ n d p, ev n = .toReceiver d ∧ decodePacket d = .ok p ∧ p.op = op

/-- R305 (b), the premise that excludes items 1, 3 and 4 of R299: a FILE_REQUEST arrives, and so does the
DONE, or a FILE_NOT_FOUND, where the sender emits one. -/
def decisivePacketsArrive (l : Nat → Link) (ev : Nat → LinkEvent) : Prop :=
  senderTakes 0x00#8 ev ∧ (senderEmits 0x05#8 l → receiverTakes 0x05#8 ev) ∧
    (senderEmits 0x03#8 l → receiverTakes 0x03#8 ev)

end Sys2Proof.Machine
end

