-- ==== Sys2Proof/Safety.lean ====
section
/-! DEFINITION. The terms claims are stated in: the closed forms the rules derive, what a step leaves behind written out
field by field, and the invariant of a block instance (10_state.md R47 to R52). No meaning calls anything here. -/

namespace Sys2Proof.Machine

open Sys2Proof

/-! The codec. -/

/-- R123: `W`, the plain integer sum of the words of R120, the padded trailing word included. -/
def wordSum : Bytes → Nat
  | lo :: hi :: rest => lo.toNat + 256 * hi.toNat + wordSum rest
  | [last] => last.toNat
  | [] => 0

/-- R123: `F`, the folded sum at the end of R120. -/
def foldedSum (b : Bytes) : Nat := (foldToEnd 2 (sumWords 0#32 b)).toNat

/-- R127: the buffer with bit `j` of byte `i` flipped. -/
def flipBit (b : Bytes) (i j : Nat) : Bytes := b.set i (byteAt b i ^^^ BitVec.twoPow 8 j)

/-! The sender's window. -/

/-- R19, R64: chunk `k` of a file. -/
def fileChunk (img : Bytes) (k : Nat) : Bytes := slice img (chunkOffset k) (chunkLength img.length k)

/-- R158: the DATA packets of chunks `start .. start + n - 1`, ascending. -/
def dataBurst (img : Bytes) (start n : Nat) : List Output :=
  (List.range n).map fun k => .tx .sender (frame 0x01#8 (BitVec.ofNat 32 (start + k)) (fileChunk img (start + k)))

/-- R28, R51: slots holding chunks `start .. start + n - 1`. -/
def chunkSlots (img : Bytes) (start n : Nat) : List (Option Slot) :=
  (List.range n).map fun k => some (Slot.ofBytes (fileChunk img (start + k)))

/-- R26, R25: `img` is the open file and the registers that follow from it hold its values. -/
structure FileOpened (x : Sender) (img : Bytes) : Prop where
  size_le : img.length ≤ fileSizeMax
  file_eq : x.file = some img
  fileSize_eq : x.fileSize = some (BitVec.ofNat 42 img.length)
  maxSequence_eq : x.maxSequence = some (BitVec.ofInt 33 (maxSequenceOf img.length))

/-- R50: `windowEnd = min(windowStart + 4, maxSequence)`. -/
def WindowBounded (x : Sender) (img : Bytes) : Prop :=
  x.windowEnd.toInt = windowEndOf x.windowStart.toNat (maxSequenceOf img.length)

/-- R51: every slot of the window holds its chunk. -/
def WindowBuffered (x : Sender) (img : Bytes) : Prop :=
  ∀ k, k < windowCount x.windowStart.toNat x.windowEnd.toInt →
    x.wbuf.getD k none = some (Slot.ofBytes (fileChunk img (x.windowStart.toNat + k)))

/-- R46, R151: the window registers before a file is open. -/
structure WindowInitial (x : Sender) : Prop where
  windowStart_eq : x.windowStart = 0#32
  windowEnd_eq : x.windowEnd = 4#33
  maxSequence_eq : x.maxSequence = none
  fileSize_eq : x.fileSize = none
  file_eq : x.file = none

/-- R29, R42: a timeout count never passes the cap, and stays below it while `live`. -/
def CountBelowCap (cap : Option Nat) (count : Nat) (live : Prop) : Prop :=
  match cap with
  | none => True
  | some n => count ≤ n ∧ (live → count < n)

/-- R28, R36: `len` and `data` of a slot agree and are in range. -/
def SlotLegal (slot : Slot) : Prop := slot.data.length ≤ chunkSize ∧ slot.len.toNat = slot.data.length

/-- R28: every slot that holds a value is legal. -/
def SlotsLegal (slots : List (Option Slot)) : Prop :=
  ∀ (k : Nat) (slot : Slot), slots[k]? = some (some slot) → SlotLegal slot

/-- R21 to R29, R49 to R51: the sender's registers in each session state. In `S_TERMINATED` R50's
exception stands: after a defensive end the bounds are 0 and 4. In `S_MISSING`, and after it,
`maxSequence` holds no value (log 19). -/
def SenderInv (c : Config) (x : Sender) : Prop :=
  x.wbuf.length = windowSize ∧ SlotsLegal x.wbuf ∧ CountBelowCap c.retryCap x.toCount (x.state = .sendWait) ∧
  match x.state with
  | .idle | .awaitReq => WindowInitial x ∧ x.status = .none ∧ x.toCount = 0
  | .sendWait =>
    x.status = .none ∧ ∃ img, FileOpened x img ∧ WindowBounded x img ∧ WindowBuffered x img ∧
      (x.windowStart.toNat : Int) ≤ maxSequenceOf img.length
  | .doneWait =>
    x.status = .none ∧ ∃ img, FileOpened x img ∧ WindowBounded x img ∧
      maxSequenceOf img.length < (x.windowStart.toNat : Int)
  | .missing => WindowInitial x ∧ x.status = .none
  | .terminated =>
    x.status ≠ .none ∧
      (WindowInitial x ∨ ∃ img, FileOpened x img ∧
        (WindowBounded x img ∨ (x.status = .defensive ∧ x.windowStart = 0#32 ∧ x.windowEnd = 4#33)))

/-- R33: a path that is held is in range. -/
def PathLegal (path : Option Bytes) : Prop := ∀ p, path = some p → p.length ≤ chunkSize

/-- R31 to R38, R52: the receiver's registers. A valid slot `k` stands for a sequence number that is
never 2^32 - 1 (R211), so the cursor cannot overflow (R35). -/
def ReceiverInv (c : Config) (x : Receiver) : Prop :=
  x.rb.length = c.rbDepth ∧ SlotsLegal x.rb ∧ PathLegal x.path ∧ x.bc < c.rxBatch ∧
  CountBelowCap c.retryCap x.toCount (x.state = .reqSent ∨ x.state = .receiving) ∧
  (∀ (k : Nat) (slot : Slot), x.rb[k]? = some (some slot) → x.writeCursor.toNat + k < 2 ^ 32 - 1) ∧
  match x.state with
  | .idle => x.status = .none ∧ x.writeCursor = 0#32 ∧ x.toCount = 0 ∧ x.bc = 0
  | .reqSent => x.status = .none ∧ x.writeCursor = 0#32 ∧ x.bc = 0 ∧ x.path.isSome = true
  | .receiving => x.status = .none ∧ x.path.isSome = true
  | .flushedOnDone => x.status = .success ∨ x.status = .incomplete
  | .abortedOnMissing => x.status = .fileMissing
  | .failed => x.status = .retryExhausted

/-- The invariant of a block instance. -/
def BlockInv (s : State) : Prop := s.cfg.wf = true ∧ SenderInv s.cfg s.snd ∧ ReceiverInv s.cfg s.rcv

/-! What the receiver's procedures leave behind. -/

/-- R223: how many slots from slot 0 on are valid. -/
def validPrefix (rb : List (Option Slot)) : List (Option Slot) := rb.takeWhile Option.isSome

/-- R223: the write of a slot. -/
def writeOf (slot : Option Slot) : Output := .sinkWrite ((slot.map Slot.bytes).getD [])

/-- R223: the state after `Flush()`: the valid prefix written in order, the cursor past it, the slots
shifted down. -/
def flushed (s : State) : State :=
  { s with
    rcv := { s.rcv with
      writeCursor := s.rcv.writeCursor + BitVec.ofNat 32 (validPrefix s.rcv.rb).length
      rb := s.rcv.rb.drop (validPrefix s.rcv.rb).length ++ List.replicate (validPrefix s.rcv.rb).length none }
    out := s.out ++ (validPrefix s.rcv.rb).map writeOf }

/-- R222, R99: the ACK packet that carries `next`. -/
def ackPacket (next : SeqNo) : Datagram := frame 0x02#8 next (putBE32 next)

/-- R222, R227: the state after `AckStep()`: flushed, the cursor acknowledged, the batch empty. -/
def acknowledged (s : State) : State :=
  { flushed s with
    rcv := { (flushed s).rcv with bc := 0 }
    out := (flushed s).out ++ [.tx .receiver (ackPacket (flushed s).rcv.writeCursor)] }

/-- R220: the state after the batch epilogue. -/
def batchCounted (s : State) : State :=
  if s.rcv.state = .receiving then
    if s.rcv.bc + 1 = s.cfg.rxBatch then acknowledged s
    else { s with rcv := { s.rcv with bc := s.rcv.bc + 1 } }
  else s

/-- R19, R31: a receiver session is running. -/
def receiverActive (s : State) : Prop := s.rcv.state = .reqSent ∨ s.rcv.state = .receiving

/-- R19, R21: a sender session is running. -/
def senderActive (s : State) : Prop :=
  s.snd.state = .awaitReq ∨ s.snd.state = .sendWait ∨ s.snd.state = .doneWait ∨ s.snd.state = .missing

/-! Which engine an instruction is for, and whole transfers. -/

/-- R104, R269: the engine that takes an instruction; RESET acts on both. -/
def engineOf : Instr → Option Engine
  | .fileRequest e _ _ | .data e _ _ | .ack e _ _ | .fileNotFound e _ | .fileNotFoundAck e _ | .done e _
  | .doneAck e _ => some e
  | .reset => none
  | .serve | .rxS _ | .timeoutS => some .sender
  | .fetch _ | .rxR _ | .timeoutR | .drainEnd => some .receiver

/-- R200, R203: an instruction that, while a receiver session runs, puts nothing into the reorder buffer and does
not end the session with a packet: the timer, the drain end, the packets no receiver state handles, a
datagram that does not decode, a FETCH (answered CMD_BUSY), and every instruction of the sender. -/
def storesNoChunk (i : Instr) : Bool :=
  match i with
  | .fileRequest _ _ _ | .ack _ _ _ | .fileNotFoundAck _ _ | .doneAck _ _ => true
  | .data e _ _ | .done e _ | .fileNotFound e _ => decide (e = .sender)
  | .rxR d => !(decodePacket d).isOk
  | .serve | .fetch _ | .rxS _ | .timeoutS | .timeoutR | .drainEnd => true
  | .reset => false

/-- R228: the first `n` chunks of a file, concatenated. -/
def chunksBelow (img : Bytes) (n : Nat) : Bytes := (List.range n).flatMap (fileChunk img)

/-- R228: the sink holds the chunks below the cursor, and every valid slot its own chunk. -/
def Reassembled (path img : Bytes) (s : State) : Prop :=
  sinkLog s = .opened path (chunksBelow img s.rcv.writeCursor.toNat) ∧
  ∀ k slot, s.rcv.rb[k]? = some (some slot) →
    slot = Slot.ofBytes (fileChunk img (s.rcv.writeCursor.toNat + k)) ∧
      ((s.rcv.writeCursor.toNat + k : Nat) : Int) ≤ maxSequenceOf img.length

/-- R228: chunks of `img` delivered to the receiver in any order and with any duplicates, each below
`writeCursor + RB_DEPTH` at its arrival, with other steps between that leave the session running. `got`
lists the sequence numbers delivered, the last one first. -/
inductive Delivery (img : Bytes) (s : State) : List Nat → State → Prop where
  | start : Delivery img s [] s
  | chunk (got : List Nat) (t u : State) (seq : SeqNo) :
      Delivery img s got t → (seq.toNat : Int) ≤ maxSequenceOf img.length →
      seq.toNat < t.rcv.writeCursor.toNat + t.cfg.rbDepth →
      exec (.data .receiver seq (fileChunk img seq.toNat)) t = .next u → Delivery img s (seq.toNat :: got) u
  | other (got : List Nat) (t u : State) (i : Instr) :
      Delivery img s got t → storesNoChunk i = true → exec i t = .next u → receiverActive u → Delivery img s got u

end Sys2Proof.Machine
end

