-- ==== Sys2Proof/WellFormed.lean ====
section
/-! DEFINITION. Which instructions the encodings of 30_encoding.md can express. -/

namespace Sys2Proof

/-- R95, R97: a path or a chunk is at most 1015 bytes. An RX row stands for the datagrams that are no
packet of R96: one that decodes `OK` is that packet's own instruction (log 8). FETCH takes a path of
any length, for R105 answers an over-long one. -/
def Instr.wf : Instr → Bool
  | .fileRequest _ _ path => decide (path.length ≤ chunkSize)
  | .data _ _ payload => decide (payload.length ≤ chunkSize)
  | .ack _ _ _ => true
  | .fileNotFound _ _ => true
  | .fileNotFoundAck _ _ => true
  | .done _ _ => true
  | .doneAck _ _ => true
  | .reset => true
  | .serve => true
  | .fetch _ => true
  | .rxS d => !(Machine.decodePacket d).isOk
  | .rxR d => !(Machine.decodePacket d).isOk
  | .timeoutS => true
  | .timeoutR => true
  | .drainEnd => true

end Sys2Proof
end

