-- ==== Sys2Proof/Certificates/Slice0/Obligations.lean ====
section
/-! DEFINITION. The statements about the model, in the terms of Safety.lean. Each names the rules of spec/ it formalises. -/

open Sys2Proof Sys2Proof.Machine

/-! The codec (40_codec.md). -/

/-- R122: the fold law; the final loop never iterates. -/
def Obligations.FoldKeepsTheSumInSixteenBits : Prop :=
  (∀ sum w : Acc, sum.toNat ≤ 0xFFFF → w.toNat ≤ 0xFFFF →
    (sum + w).toNat ≤ 0x1FFFE ∧ (foldCarry (sum + w)).toNat ≤ 0xFFFF) ∧
  foldCarry 0x1FFFE#32 = 0xFFFF#32 ∧
  (∀ (sum : Acc) (b : Bytes), sum.toNat ≤ 0xFFFF → (sumWords sum b).toNat ≤ 0xFFFF) ∧
  ∀ (b : Bytes) (n : Nat), foldToEnd n (sumWords 0#32 b) = sumWords 0#32 b

/-- R123: the closed form of the checksum, `W` the word sum and `F` the folded sum. -/
def Obligations.ChecksumClosedForm : Prop :=
  ∀ b : Bytes,
    (foldedSum b = 0 ↔ wordSum b = 0) ∧ (wordSum b = 0 ↔ ∀ x ∈ b, x = 0#8) ∧
    (wordSum b ≠ 0 → foldedSum b = (wordSum b - 1) % 65535 + 1 ∧ 1 ≤ foldedSum b ∧ foldedSum b ≤ 0xFFFF) ∧
    (checksum b).toNat = 0xFFFF - foldedSum b ∧
    (checksum b = 0#16 ↔ 0 < wordSum b ∧ wordSum b % 65535 = 0)

/-- R125: every framed packet verifies; and the same DONE with its checksum stored low byte first does not. -/
def Obligations.EncodedPacketVerifies : Prop :=
  (∀ (op : Byte) (seq : Nat) (payload d : Bytes), encodePacket op seq payload = some d →
    checksum d = 0#16 ∧ verify d = true) ∧
  encodePacket 0x05#8 3 [] = some [0x05#8, 0x00#8, 0x00#8, 0x00#8, 0x03#8, 0x00#8, 0x00#8, 0xff#8, 0xf7#8] ∧
  verify [0x05#8, 0x00#8, 0x00#8, 0x00#8, 0x03#8, 0x00#8, 0x00#8, 0xf7#8, 0xff#8] = false

/-- R90, R94: Encode answers on its preconditions with the packet laid out field by field, big-endian. -/
def Obligations.EncodeLaysOutThePacket : Prop :=
  ∀ (op : Byte) (seq : SeqNo) (payload : Bytes), op.toNat ≤ 6 → payload.length ≤ chunkSize →
    ∃ d, encodePacket op seq.toNat payload = some d ∧ d.length = 9 + payload.length ∧
      d.take 7 = [op, seq.extractLsb' 24 8, seq.extractLsb' 16 8, seq.extractLsb' 8 8, seq.extractLsb' 0 8,
        BitVec.ofNat 8 (payload.length / 256), BitVec.ofNat 8 payload.length] ∧
      be16 d 7 = checksum ((d.set 7 0#8).set 8 0#8) ∧ d.drop 9 = payload

/-- R128: Encode has no meaning outside its preconditions. -/
def Obligations.EncodeRefusesOutsideItsDomain : Prop :=
  ∀ (op : Byte) (seq : Nat) (payload : Bytes),
    (encodePacket op seq payload).isSome = true ↔ op.toNat ≤ 6 ∧ seq ≤ 2 ^ 32 - 1 ∧ payload.length ≤ 1015

/-- R129: the checks of Decode in their order, the class of each, and the packet when all pass. -/
def Obligations.DecodeReportsTheFirstFailingCheck : Prop :=
  ∀ b : Bytes,
    (b.length < 9 → decodePacket b = .error .short) ∧
    (1024 < b.length → decodePacket b = .error .long) ∧
    (9 ≤ b.length → b.length ≤ 1024 →
      (checksum b ≠ 0#16 → decodePacket b = .error .corrupt) ∧
      (checksum b = 0#16 →
        (6 < (byteAt b 0).toNat → decodePacket b = .error .badOpcode) ∧
        ((byteAt b 0).toNat ≤ 6 →
          ((be16 b 5).toNat ≠ b.length - 9 → decodePacket b = .error .badLength) ∧
          ((be16 b 5).toNat = b.length - 9 →
            ((byteAt b 0).toNat = 2 → (be16 b 5).toNat ≠ 4 → decodePacket b = .error .badPayload) ∧
            (3 ≤ (byteAt b 0).toNat → (be16 b 5).toNat ≠ 0 → decodePacket b = .error .badPayload) ∧
            ((byteAt b 0).toNat ≤ 1 ∨ ((byteAt b 0).toNat = 2 ∧ (be16 b 5).toNat = 4) ∨
                (3 ≤ (byteAt b 0).toNat ∧ (be16 b 5).toNat = 0) →
              decodePacket b = .ok ⟨byteAt b 0, be32 b 1, be16 b 5, be16 b 7, b.drop 9⟩)))))

/-- R130: what a handler may rely on. -/
def Obligations.DecodedPacketGuarantees : Prop :=
  ∀ (b : Bytes) (p : Packet), decodePacket b = .ok p →
    p.op.toNat ≤ 6 ∧ 9 ≤ b.length ∧ p.len.toNat = b.length - 9 ∧ p.len.toNat ≤ 1015 ∧
    p.payload.length = p.len.toNat ∧ (p.op.toNat = 2 → p.len.toNat = 4) ∧
    (3 ≤ p.op.toNat → p.len.toNat = 0) ∧ verify b = true

/-- R132: decoding an encoded packet gives it back, the checksum field included. -/
def Obligations.DecodeReturnsTheEncodedPacket : Prop :=
  ∀ (op : Byte) (seq : SeqNo) (payload : Bytes), op.toNat ≤ 6 → payload.length ≤ chunkSize →
    payloadAllowed op payload.length = true →
    ∃ d, encodePacket op seq.toNat payload = some d ∧
      decodePacket d = .ok { op := op, seq := seq, len := BitVec.ofNat 16 payload.length, csum := be16 d 7, payload := payload }

/-- R127, its first bullet: every single-bit error is detected. -/
def Obligations.SingleBitErrorsAreDetected : Prop :=
  ∀ (op : Byte) (seq : Nat) (payload d : Bytes), encodePacket op seq payload = some d →
    ∀ i j, i < d.length → j < 8 → decodePacket (flipBit d i j) = .error .corrupt

/-- R127, its second bullet and its last: a change of the word sum by a multiple of 65535 that leaves it
positive is not detected; all-zero buffers never verify. -/
def Obligations.EqualWordSumsGoUndetected : Prop :=
  (∀ b b' : Bytes, verify b = true → 0 < wordSum b' → wordSum b' % 65535 = wordSum b % 65535 → verify b' = true) ∧
  ∀ n, verify (List.replicate n 0#8) = false

/-- R112: the seven example packets, byte for byte. -/
def Obligations.ExamplePacketsAreEncodedAsWritten : Prop :=
  encodePacket 0x00#8 0 [0x61#8, 0x2e#8, 0x74#8, 0x78#8, 0x74#8] =
      some [0x00#8, 0x00#8, 0x00#8, 0x00#8, 0x00#8, 0x00#8, 0x05#8, 0xb6#8, 0x53#8, 0x61#8, 0x2e#8, 0x74#8, 0x78#8, 0x74#8] ∧
  encodePacket 0x01#8 2 [0x61#8, 0x62#8, 0x63#8] =
      some [0x01#8, 0x00#8, 0x00#8, 0x00#8, 0x02#8, 0x00#8, 0x03#8, 0x3b#8, 0x97#8, 0x61#8, 0x62#8, 0x63#8] ∧
  encodePacket 0x02#8 3 (putBE32 3#32) =
      some [0x02#8, 0x00#8, 0x00#8, 0x00#8, 0x03#8, 0x00#8, 0x04#8, 0xff#8, 0xf3#8, 0x00#8, 0x00#8, 0x00#8, 0x03#8] ∧
  encodePacket 0x03#8 0 [] = some [0x03#8, 0x00#8, 0x00#8, 0x00#8, 0x00#8, 0x00#8, 0x00#8, 0xff#8, 0xfc#8] ∧
  encodePacket 0x04#8 0 [] = some [0x04#8, 0x00#8, 0x00#8, 0x00#8, 0x00#8, 0x00#8, 0x00#8, 0xff#8, 0xfb#8] ∧
  encodePacket 0x05#8 3 [] = some [0x05#8, 0x00#8, 0x00#8, 0x00#8, 0x03#8, 0x00#8, 0x00#8, 0xff#8, 0xf7#8] ∧
  encodePacket 0x06#8 3 [] = some [0x06#8, 0x00#8, 0x00#8, 0x00#8, 0x03#8, 0x00#8, 0x00#8, 0xff#8, 0xf6#8]

/-! Instructions and their encodings (30_encoding.md). -/

/-- Words written out from the tables of R104 and R112 are read as the instructions they stand for. -/
def Obligations.WrittenOutWordsAreRead : Prop :=
  decode ⟨.event, 0x01#8, []⟩ = .ok .reset ∧ decode ⟨.command, 0x10#8, []⟩ = .ok .serve ∧
  decode ⟨.command, 0x11#8, [0x66#8]⟩ = .ok (.fetch [0x66#8]) ∧
  decode ⟨.event, 0x30#8, []⟩ = .ok .timeoutS ∧ decode ⟨.event, 0x31#8, []⟩ = .ok .timeoutR ∧
  decode ⟨.event, 0x41#8, []⟩ = .ok .drainEnd ∧
  decode ⟨.event, 0x20#8, [0x02#8, 0x00#8, 0x00#8, 0x00#8, 0x03#8, 0x00#8, 0x04#8, 0xff#8, 0xf3#8, 0x00#8, 0x00#8, 0x00#8, 0x03#8]⟩ =
    .ok (.ack .sender 3#32 3#32) ∧
  decode ⟨.event, 0x21#8, [0x01#8, 0x00#8, 0x00#8, 0x00#8, 0x02#8, 0x00#8, 0x03#8, 0x3b#8, 0x97#8, 0x61#8, 0x62#8, 0x63#8]⟩ =
    .ok (.data .receiver 2#32 [0x61#8, 0x62#8, 0x63#8])

/-- Decode and encode agree for every instruction the encodings can express. -/
def Obligations.DecodeReadsTheEncodedInstruction : Prop :=
  ∀ i : Instr, i.wf = true → decode (encode i) = .ok i

/-- Whatever the decoder reads, the encodings can express. -/
def Obligations.DecodeGivesWellFormedInstructions : Prop :=
  ∀ (w : Input) (i : Instr), decode w = .ok i → i.wf = true

/-- R70: a step takes the next input and runs exactly the instruction it is; the rest of the inputs wait. -/
def Obligations.StepRunsTheDecodedInstruction : Prop :=
  ∀ (s : State) (w : Input) (rest : List Input) (i : Instr), s.inputs = w :: rest → decode w = .ok i →
    step s = exec i { s with inputs := rest }

/-- The model's choice of log 5, for R271: with nothing offered the block waits, unchanged. -/
def Obligations.StepWaitsWithoutInput : Prop :=
  ∀ s : State, s.inputs = [] → step s = .next s

/-- R105, R256: a host command with any other code is answered CMD_UNKNOWN and changes no register. Which inputs
are host commands is the model's choice (log 9). -/
def Obligations.UnknownCommandsAreAnswered : Prop :=
  ∀ (s : State) (c : Byte) (operand : Bytes) (rest : List Input), c ≠ 0x10#8 → c ≠ 0x11#8 →
    s.inputs = ⟨.command, c, operand⟩ :: rest →
    step s = .next { s with inputs := rest, out := s.out ++ [.cmdResp .unknown] }

/-- R107: reserved event codes are refused. -/
def Obligations.ReservedEventCodesAreRefused : Prop :=
  ∀ (s : State) (c : Byte) (operand : Bytes) (rest : List Input),
    c ∉ [0x01#8, 0x10#8, 0x11#8, 0x20#8, 0x21#8, 0x30#8, 0x31#8, 0x41#8] →
    s.inputs = ⟨.event, c, operand⟩ :: rest → step s = .refused (.reservedEventCode c)

/-- R104: an event that is not enabled has no step; that the model refuses it by name is its choice (log 11). -/
def Obligations.EventsNotEnabledHaveNoStep : Prop :=
  ∀ s : State,
    (s.snd.state ∉ [.sendWait, .doneWait, .missing] → exec .timeoutS s = .refused (.eventNotEnabled 0x30#8)) ∧
    (s.rcv.state ∉ [.reqSent, .receiving] → exec .timeoutR s = .refused (.eventNotEnabled 0x31#8)) ∧
    (¬ (s.rcv.state = .receiving ∧ 1 ≤ s.rcv.bc) → exec .drainEnd s = .refused (.eventNotEnabled 0x41#8))

/-! Reset and host commands (70_reset_and_hazards.md, 41_sender.md R151, 42_receiver.md R201). -/

/-- R290: RESET gives every register its value of R46, disarms both timers and emits nothing. -/
def Obligations.ResetPutsEveryRegister : Prop :=
  ∀ s : State, ∃ t, exec .reset s = .next t ∧
    t.snd = { state := .idle, status := .none, windowStart := 0#32, windowEnd := 4#33, maxSequence := none,
              fileSize := none, file := none, wbuf := [none, none, none, none, none], nfCount := 0#1, toCount := 0,
              lastDrop := .none } ∧
    t.rcv = { state := .idle, status := .none, path := none, reqCount := 0#1, writeCursor := 0#32,
              rb := List.replicate s.cfg.rbDepth none, bc := 0, toCount := 0, lastDrop := .none } ∧
    timerArmed .sender t = false ∧ timerArmed .receiver t = false ∧
    t.out = s.out ∧ t.inputs = s.inputs ∧ t.cfg = s.cfg

/-- R46: the values of the registers of `State.reset`, as the status view shows them, and the registers
that hold no value. The configuration and the empty queues are the model's choice (log 2, 4, 12). -/
def Obligations.ResetStateHoldsTheResetValues : Prop :=
  (∀ f : ViewField, statusView f State.reset = viewReset f State.reset.cfg) ∧
  State.reset.snd.file = none ∧ State.reset.snd.wbuf = [none, none, none, none, none] ∧
  State.reset.rcv.path = none ∧ State.reset.rcv.rb = [none, none, none, none, none] ∧
  State.reset.inputs = [] ∧ State.reset.out = []

/-- R151: SERVE. -/
def Obligations.ServeStartsASessionOrIsBusy : Prop :=
  ∀ s : State,
    (s.snd.state = .idle ∨ s.snd.state = .terminated →
      exec .serve s = .next { s with
        snd := { state := .awaitReq, status := .none, windowStart := 0#32, windowEnd := 4#33, maxSequence := none,
                 fileSize := none, file := none, wbuf := [none, none, none, none, none], nfCount := 0#1, toCount := 0,
                 lastDrop := .none }
        out := s.out ++ [.cmdResp .ok] }) ∧
    (senderActive s → exec .serve s = .next { s with out := s.out ++ [.cmdResp .busy] })

/-- R201: FETCH, for every path. -/
def Obligations.FetchStartsASessionOrIsRefused : Prop :=
  ∀ (s : State) (path : Bytes),
    (receiverActive s → exec (.fetch path) s = .next { s with out := s.out ++ [.cmdResp .busy] }) ∧
    (¬ receiverActive s → 1015 < path.length →
      exec (.fetch path) s = .next { s with out := s.out ++ [.cmdResp .badPath] }) ∧
    (¬ receiverActive s → path.length ≤ 1015 →
      exec (.fetch path) s = .next { s with
        rcv := { state := .reqSent, status := .none, path := some path, reqCount := 0#1, writeCursor := 0#32,
                 rb := List.replicate s.cfg.rbDepth none, bc := 0, toCount := 0, lastDrop := .none }
        out := s.out ++ [.tx .receiver (frame 0x00#8 0#32 path), .sinkOpen path, .cmdResp .ok] })

/-! The receive prologues. -/

/-- R152: in every sender state a datagram that does not decode changes `lastDrop` alone; one that does
is its packet's own instruction. -/
def Obligations.SenderDropsWhatDoesNotDecode : Prop :=
  ∀ (s : State) (d : Datagram),
    (∀ c, decodePacket d = .error c → exec (.rxS d) s = .next { s with snd := { s.snd with lastDrop := c } }) ∧
    (∀ p, decodePacket d = .ok p → ∃ i, packetInstr .sender p = some i ∧ exec (.rxS d) s = exec i s)

/-- R202, R220: in every receiver state a datagram that does not decode sets `lastDrop` and counts toward
the batch; one that does is its packet's own instruction. -/
def Obligations.ReceiverDropsAndCountsWhatDoesNotDecode : Prop :=
  ∀ (s : State) (d : Datagram),
    (∀ c, decodePacket d = .error c →
      exec (.rxR d) s = .next (batchCounted { s with rcv := { s.rcv with lastDrop := c } })) ∧
    (∀ p, decodePacket d = .ok p → ∃ i, packetInstr .receiver p = some i ∧ exec (.rxR d) s = exec i s)

/-! The sender engine (41_sender.md). -/

/-- R153: the cells of R150 that no rule handles. -/
def Obligations.SenderIgnoresUnhandledPackets : Prop :=
  ∀ (s : State) (seq next : SeqNo) (b : Bytes) (i : Instr),
    (s.snd.state ≠ .awaitReq ∧ i = .fileRequest .sender seq b) ∨
    (s.snd.state ≠ .sendWait ∧ i = .ack .sender seq next) ∨
    (s.snd.state ≠ .sendWait ∧ s.snd.state ≠ .doneWait ∧ i = .doneAck .sender seq) ∨
    (s.snd.state ≠ .sendWait ∧ s.snd.state ≠ .doneWait ∧ s.snd.state ≠ .missing ∧ i = .fileNotFoundAck .sender seq) ∨
    i = .data .sender seq b ∨ i = .fileNotFound .sender seq ∨ i = .done .sender seq →
    exec i s = .next { s with snd := { s.snd with lastDrop := .ignored } }

/-- R154 to R158, R62: FILE_REQUEST in `S_AWAIT_REQ`, in every such state. A path with no file, or with one
above `FILE_SIZE_MAX`, is answered FILE_NOT_FOUND; else the file is opened, the window filled and sent, or
DONE sent at once for an empty file. -/
def Obligations.FileRequestOpensOrReportsMissing : Prop :=
  ∀ (s : State) (seq : SeqNo) (path : Bytes), s.snd.state = .awaitReq →
    (s.cfg.fs.lookup path = none ∨ (∃ img, s.cfg.fs.lookup path = some img ∧ fileSizeMax < img.length) →
      exec (.fileRequest .sender seq path) s = .next { s with
        snd := { s.snd with toCount := 0, nfCount := 0#1, state := .missing }
        out := s.out ++ [.tx .sender (frame 0x03#8 0#32 [])] }) ∧
    (∀ img, s.cfg.fs.lookup path = some img → img.length ≤ fileSizeMax →
      exec (.fileRequest .sender seq path) s = .next { s with
        snd := { s.snd with
          toCount := 0
          fileSize := some (BitVec.ofNat 42 img.length)
          file := some img
          maxSequence := some (BitVec.ofInt 33 (maxSequenceOf img.length))
          windowStart := 0#32
          windowEnd := BitVec.ofInt 33 (windowEndOf 0 (maxSequenceOf img.length))
          wbuf := chunkSlots img 0 (windowCount 0 (windowEndOf 0 (maxSequenceOf img.length))) ++
            s.snd.wbuf.drop (windowCount 0 (windowEndOf 0 (maxSequenceOf img.length)))
          state := if img = [] then .doneWait else .sendWait }
        out := s.out ++
          if img = [] then [.tx .sender (frame 0x05#8 0#32 [])]
          else dataBurst img 0 (windowCount 0 (windowEndOf 0 (maxSequenceOf img.length))) })

/-- R169: an empty file is answered DONE 0 at once, with no DATA. -/
def Obligations.EmptyFileIsDoneAtOnce : Prop :=
  ∀ (s : State) (seq : SeqNo) (path : Bytes), s.snd.state = .awaitReq → s.cfg.fs.lookup path = some [] →
    ∃ t m, exec (.fileRequest .sender seq path) s = .next t ∧ t.snd.state = .doneWait ∧
      t.snd.maxSequence = some m ∧ m.toInt = -1 ∧ t.snd.windowEnd.toInt = -1 ∧
      t.out = s.out ++ [.tx .sender (frame 0x05#8 0#32 [])]

/-- R159, R160: an ACK in `S_SEND_WAIT`. Above `windowStart` it advances the window, whose slots then hold
their chunks and no others, and the new window or DONE is sent; at or below, the window is sent again. -/
def Obligations.AckAdvancesOrResendsTheWindow : Prop :=
  ∀ (s : State) (seq next : SeqNo) (img : Bytes), s.snd.state = .sendWait → FileOpened s.snd img →
    WindowBounded s.snd img → WindowBuffered s.snd img →
    (s.snd.windowStart.toNat < next.toNat →
      exec (.ack .sender seq next) s = .next { s with
        snd := { s.snd with
          toCount := 0
          windowStart := next
          windowEnd := BitVec.ofInt 33 (windowEndOf next.toNat (maxSequenceOf img.length))
          wbuf := chunkSlots img next.toNat (windowCount next.toNat (windowEndOf next.toNat (maxSequenceOf img.length))) ++
            List.replicate (5 - windowCount next.toNat (windowEndOf next.toNat (maxSequenceOf img.length))) none
          state := if maxSequenceOf img.length < (next.toNat : Int) then .doneWait else .sendWait }
        out := s.out ++
          if maxSequenceOf img.length < (next.toNat : Int) then [.tx .sender (frame 0x05#8 next [])]
          else dataBurst img next.toNat (windowCount next.toNat (windowEndOf next.toNat (maxSequenceOf img.length))) }) ∧
    (next.toNat ≤ s.snd.windowStart.toNat →
      exec (.ack .sender seq next) s = .next { s with
        snd := { s.snd with toCount := 0 }
        out := s.out ++ dataBurst img s.snd.windowStart.toNat
          (windowCount s.snd.windowStart.toNat s.snd.windowEnd.toInt) })

/-- R161, R162: TIMEOUT in `S_SEND_WAIT` resends the identical window, or ends the session at the cap. -/
def Obligations.SenderTimeoutResendsTheWindow : Prop :=
  ∀ (s : State) (img : Bytes), s.snd.state = .sendWait → WindowBuffered s.snd img →
    ((∃ n, s.cfg.retryCap = some n ∧ n ≤ s.snd.toCount + 1) →
      exec .timeoutS s = .next { s with
        snd := { s.snd with toCount := s.snd.toCount + 1, status := .retryExhausted, state := .terminated }
        out := s.out ++ [.endSession .sender .retryExhausted] }) ∧
    ((∀ n, s.cfg.retryCap = some n → s.snd.toCount + 1 < n) →
      exec .timeoutS s = .next { s with
        snd := { s.snd with toCount := s.snd.toCount + 1 }
        out := s.out ++ dataBurst img s.snd.windowStart.toNat
          (windowCount s.snd.windowStart.toNat s.snd.windowEnd.toInt) })

/-- R164: TIMEOUT in `S_DONE_WAIT` ends the session; DONE is not resent. -/
def Obligations.SenderTimeoutAfterDoneEndsTheSession : Prop :=
  ∀ s : State, s.snd.state = .doneWait →
    exec .timeoutS s = .next { s with
      snd := { s.snd with status := .doneUnacked, state := .terminated }
      out := s.out ++ [.endSession .sender .doneUnacked] }

/-- R168: TIMEOUT in `S_MISSING`: one resend of FILE_NOT_FOUND, then the end. -/
def Obligations.SenderTimeoutInMissing : Prop :=
  ∀ s : State, s.snd.state = .missing →
    (s.snd.nfCount = 0#1 →
      exec .timeoutS s = .next { s with
        snd := { s.snd with nfCount := 1#1 }
        out := s.out ++ [.tx .sender (frame 0x03#8 0#32 [])] }) ∧
    (s.snd.nfCount = 1#1 →
      exec .timeoutS s = .next { s with
        snd := { s.snd with status := .missingUnacked, state := .terminated }
        out := s.out ++ [.endSession .sender .missingUnacked] })

/-- R163, and R166 for DONE_ACK: the end of the session, successful or defensive. -/
def Obligations.DoneAckEndsTheSenderSession : Prop :=
  ∀ (s : State) (seq : SeqNo),
    (s.snd.state = .doneWait →
      exec (.doneAck .sender seq) s = .next { s with
        snd := { s.snd with toCount := 0, status := .success, state := .terminated }
        out := s.out ++ [.endSession .sender .success] }) ∧
    (s.snd.state = .sendWait →
      exec (.doneAck .sender seq) s = .next { s with
        snd := { s.snd with toCount := 0, windowStart := 0#32, windowEnd := 4#33, status := .defensive, state := .terminated }
        out := s.out ++ [.endSession .sender .defensive] })

/-- R167, and R166 for FILE_NOT_FOUND_ACK. -/
def Obligations.FileNotFoundAckEndsTheSenderSession : Prop :=
  ∀ (s : State) (seq : SeqNo),
    (s.snd.state = .missing →
      exec (.fileNotFoundAck .sender seq) s = .next { s with
        snd := { s.snd with toCount := 0, status := .missingAcked, state := .terminated }
        out := s.out ++ [.endSession .sender .missingAcked] }) ∧
    (s.snd.state = .sendWait ∨ s.snd.state = .doneWait →
      exec (.fileNotFoundAck .sender seq) s = .next { s with
        snd := { s.snd with toCount := 0, windowStart := 0#32, windowEnd := 4#33, status := .defensive, state := .terminated }
        out := s.out ++ [.endSession .sender .defensive] })

/-! The receiver engine (42_receiver.md). -/

/-- R203, R220: the cells of R200 that no rule handles; the datagram still counts toward the batch. -/
def Obligations.ReceiverIgnoresUnhandledPackets : Prop :=
  ∀ (s : State) (seq next : SeqNo) (b : Bytes) (i : Instr),
    (i = .fileRequest .receiver seq b ∨ i = .ack .receiver seq next ∨ i = .fileNotFoundAck .receiver seq ∨
      i = .doneAck .receiver seq →
      exec i s = .next (batchCounted { s with rcv := { s.rcv with lastDrop := .ignored } })) ∧
    (¬ receiverActive s → i = .data .receiver seq b ∨ i = .done .receiver seq ∨ i = .fileNotFound .receiver seq →
      exec i s = .next { s with rcv := { s.rcv with lastDrop := .ignored } })

/-- R206, R210, R211, R220: DATA in a session. A packet already in the seen-set (R43) is a duplicate, one
beyond the buffer or with sequence 2^32 - 1 is discarded, any other fills its slot; then the batch counts. -/
def Obligations.DataFillsItsSlotOnce : Prop :=
  ∀ (s : State) (seq : SeqNo) (payload : Bytes), receiverActive s → s.rcv.rb.length = s.cfg.rbDepth →
    ∃ r, exec (.data .receiver seq payload) s = .next (batchCounted { s with rcv := r }) ∧
      (seq = 0xFFFFFFFF#32 → r = { s.rcv with toCount := 0, state := .receiving, lastDrop := .capacity }) ∧
      (seq ≠ 0xFFFFFFFF#32 → seen s seq.toNat = true →
        r = { s.rcv with toCount := 0, state := .receiving, lastDrop := .duplicate }) ∧
      (seq ≠ 0xFFFFFFFF#32 → s.rcv.writeCursor.toNat + s.cfg.rbDepth ≤ seq.toNat →
        r = { s.rcv with toCount := 0, state := .receiving, lastDrop := .capacity }) ∧
      (seq ≠ 0xFFFFFFFF#32 → seen s seq.toNat = false → seq.toNat < s.rcv.writeCursor.toNat + s.cfg.rbDepth →
        r = { s.rcv with
          toCount := 0
          state := .receiving
          rb := s.rcv.rb.set (seq.toNat - s.rcv.writeCursor.toNat) (some (Slot.ofBytes payload)) })

/-- R207, R223: DONE in a session: DONE_ACK, flush, close, end; SUCCESS exactly when every chunk below the
DONE's sequence was written. -/
def Obligations.DoneFlushesAndClosesTheSink : Prop :=
  ∀ (s t : State) (seq : SeqNo) (st : EndStatus), receiverActive s →
    t = flushed { s with
      rcv := { s.rcv with toCount := 0 }
      out := s.out ++ [.tx .receiver (frame 0x06#8 seq [])] } →
    st = (if seq.toNat ≤ t.rcv.writeCursor.toNat then .success else .incomplete) →
    exec (.done .receiver seq) s = .next { t with
      rcv := { t.rcv with status := st, state := .flushedOnDone }
      out := t.out ++ [.sinkClose st, .endSession .receiver st] }

/-- R208: FILE_NOT_FOUND in a session. -/
def Obligations.FileNotFoundAbortsTheSink : Prop :=
  ∀ (s : State) (seq : SeqNo), receiverActive s →
    exec (.fileNotFound .receiver seq) s = .next { s with
      rcv := { s.rcv with toCount := 0, status := .fileMissing, state := .abortedOnMissing }
      out := s.out ++ [.tx .receiver (frame 0x04#8 seq []), .sinkAbort, .endSession .receiver .fileMissing] }

/-- R221 to R223: DRAIN_END in `R_RECEIVING` with a batch in progress runs the ACK step. -/
def Obligations.DrainEndFlushesAndAcknowledges : Prop :=
  ∀ s : State, s.rcv.state = .receiving → 1 ≤ s.rcv.bc → exec .drainEnd s = .next (acknowledged s)

/-- R205, R226: TIMEOUT in `R_REQ_SENT`: the request resent once, later nothing; or the end at the cap. -/
def Obligations.ReceiverTimeoutResendsTheRequestOnce : Prop :=
  ∀ (s : State) (path : Bytes), s.rcv.state = .reqSent → s.rcv.path = some path → path.length ≤ 1015 →
    ((∃ n, s.cfg.retryCap = some n ∧ n ≤ s.rcv.toCount + 1) →
      exec .timeoutR s = .next { s with
        rcv := { s.rcv with toCount := s.rcv.toCount + 1, status := .retryExhausted, state := .failed }
        out := s.out ++ [.sinkAbort, .endSession .receiver .retryExhausted] }) ∧
    ((∀ n, s.cfg.retryCap = some n → s.rcv.toCount + 1 < n) → s.rcv.reqCount = 0#1 →
      exec .timeoutR s = .next { s with
        rcv := { s.rcv with toCount := s.rcv.toCount + 1, reqCount := 1#1 }
        out := s.out ++ [.tx .receiver (frame 0x00#8 0#32 path)] }) ∧
    ((∀ n, s.cfg.retryCap = some n → s.rcv.toCount + 1 < n) → s.rcv.reqCount = 1#1 →
      exec .timeoutR s = .next { s with rcv := { s.rcv with toCount := s.rcv.toCount + 1 } })

/-- R225, R226: TIMEOUT in `R_RECEIVING`: the ACK step, or the end at the cap. -/
def Obligations.ReceiverTimeoutAcknowledgesAgain : Prop :=
  ∀ s : State, s.rcv.state = .receiving →
    ((∃ n, s.cfg.retryCap = some n ∧ n ≤ s.rcv.toCount + 1) →
      exec .timeoutR s = .next { s with
        rcv := { s.rcv with toCount := s.rcv.toCount + 1, status := .retryExhausted, state := .failed }
        out := s.out ++ [.sinkAbort, .endSession .receiver .retryExhausted] }) ∧
    ((∀ n, s.cfg.retryCap = some n → s.rcv.toCount + 1 < n) →
      exec .timeoutR s = .next (acknowledged { s with rcv := { s.rcv with toCount := s.rcv.toCount + 1 } }))

/-- R227: every ACK the receiver emits, in whatever step, carries the cursor that step leaves, and that is
the smallest integer not below the cursor that is not in the seen-set. -/
def Obligations.EveryAckCarriesTheCursor : Prop :=
  ∀ (i : Instr) (s t : State) (os : List Output) (d : Datagram) (p : Packet), exec i s = .next t →
    t.out = s.out ++ os → Output.tx .receiver d ∈ os → decodePacket d = .ok p → p.op = 0x02#8 →
    ackNext p = t.rcv.writeCursor ∧ p.seq = t.rcv.writeCursor ∧ seen t t.rcv.writeCursor.toNat = false

/-! The whole machine. -/

/-- R73, R134: an engine's step reads and writes nothing of the other's: the same registers and parameters
give the same registers and the same outputs, whatever the other engine holds. -/
def Obligations.EnginesShareNoState : Prop :=
  (∀ (i : Instr) (s s' t : State), engineOf i = some .sender → s'.cfg = s.cfg → s'.snd = s.snd →
    exec i s = .next t →
    t.rcv = s.rcv ∧ ∃ os, t.out = s.out ++ os ∧
      exec i s' = .next { s' with snd := t.snd, out := s'.out ++ os }) ∧
  (∀ (i : Instr) (s s' t : State), engineOf i = some .receiver → s'.cfg = s.cfg → s'.rcv = s.rcv →
    exec i s = .next t →
    t.snd = s.snd ∧ ∃ os, t.out = s.out ++ os ∧
      exec i s' = .next { s' with rcv := t.rcv, out := s'.out ++ os })

/-- R40, R72: no instruction writes the configuration or takes an output back. -/
def Obligations.OutputsAreOnlyAppended : Prop :=
  ∀ (i : Instr) (s t : State), exec i s = .next t →
    t.cfg = s.cfg ∧ t.inputs = s.inputs ∧ ∃ os, t.out = s.out ++ os

/-- R256: SERVE and FETCH are answered exactly once, no other instruction answers, and a response other
than OK changes no register. -/
def Obligations.CommandsAreAnsweredOnce : Prop :=
  ∀ (i : Instr) (s t : State), exec i s = .next t →
    ((i = .serve ∨ ∃ path, i = .fetch path) →
      ∃ c, cmdResponses t = cmdResponses s ++ [c] ∧ (c ≠ .ok → t.snd = s.snd ∧ t.rcv = s.rcv)) ∧
    (i ≠ .serve → (∀ path, i ≠ .fetch path) → cmdResponses t = cmdResponses s)

/-- R257, R264: END is raised in the step that ends a session, once, with the status register's value. -/
def Obligations.SessionsEndOnceWithTheirStatus : Prop :=
  ∀ (i : Instr) (s t : State), exec i s = .next t →
    (senderActive s → t.snd.state = .terminated →
      endIndications .sender t = endIndications .sender s ++ [t.snd.status]) ∧
    (¬ (senderActive s ∧ t.snd.state = .terminated) → endIndications .sender t = endIndications .sender s) ∧
    (receiverActive s → t.rcv.state ∈ [.flushedOnDone, .abortedOnMissing, .failed] →
      endIndications .receiver t = endIndications .receiver s ++ [t.rcv.status]) ∧
    (¬ (receiverActive s ∧ t.rcv.state ∈ [.flushedOnDone, .abortedOnMissing, .failed]) →
      endIndications .receiver t = endIndications .receiver s)

/-- The invariant holds at reset. -/
def Obligations.ResetMeetsTheInvariant : Prop := BlockInv State.reset

/-- R49 to R52: every step keeps the invariant of a block instance, from every state that meets it. -/
def Obligations.EveryStepKeepsTheInvariant : Prop :=
  ∀ s t : State, BlockInv s → step s = .next t → BlockInv t

/-- R272, R173: from a state that meets the invariant no step faults; a step is refused only for its head
input, by one of three names, each with its reason: the event code is none of R104's (R107); operand bytes
came where R104 and R105 have none (the model's choice, log 10); the instruction is not enabled in the state
(R104, refused by name by log 11). An instruction that is enabled has a next state. -/
def Obligations.NoRuleFaults : Prop :=
  ∀ s : State, BlockInv s →
    (∀ f, step s ≠ .fault f) ∧
    (∀ r, step s = .refused r → ∃ w rest, s.inputs = w :: rest ∧
      ((r = .reservedEventCode w.code ∧ w.port = .event ∧
          w.code ∉ [0x01#8, 0x10#8, 0x11#8, 0x20#8, 0x21#8, 0x30#8, 0x31#8, 0x41#8]) ∨
        (r = .operandNotAllowed w.code ∧ w.operand ≠ [] ∧
          ((w.port = .event ∧ w.code ∈ [0x01#8, 0x10#8, 0x30#8, 0x31#8, 0x41#8]) ∨
            (w.port = .command ∧ w.code = 0x10#8))) ∨
        (r = .eventNotEnabled w.code ∧ ∃ i, decode w = .ok i ∧ enabled i s = false))) ∧
    (∀ w rest i, s.inputs = w :: rest → decode w = .ok i → enabled i s = true → ∃ t, step s = .next t)

/-- R41, R42: in every state that meets the invariant each field of the status view reads a legal value. -/
def Obligations.StatusViewIsLegal : Prop :=
  ∀ (s : State) (f : ViewField) (v : ViewValue), BlockInv s → statusView f s = some v → viewLegal f s.cfg v = true

/-- R41: the status view shows every register of both engines: two states it shows alike have the same registers. -/
def Obligations.StatusViewShowsEveryRegister : Prop :=
  ∀ s t : State, BlockInv s → BlockInv t → (∀ f : ViewField, statusView f s = statusView f t) →
    s.snd = t.snd ∧ s.rcv = t.rcv

/-- R49: in `S_SEND_WAIT` the window is never empty and holds one to five chunks. -/
def Obligations.WindowHoldsOneToFiveChunks : Prop :=
  ∀ s : State, BlockInv s → s.snd.state = .sendWait →
    ∃ m, s.snd.maxSequence = some m ∧ (s.snd.windowStart.toNat : Int) ≤ m.toInt ∧
      (s.snd.windowStart.toNat : Int) ≤ s.snd.windowEnd.toInt ∧
      s.snd.windowEnd.toInt ≤ (s.snd.windowStart.toNat : Int) + 4 ∧
      1 ≤ windowCount s.snd.windowStart.toNat s.snd.windowEnd.toInt ∧
      windowCount s.snd.windowStart.toNat s.snd.windowEnd.toInt ≤ 5

/-- R47: `windowStart` never decreases in a step that does not end the session; the one way down is the
defensive end. -/
def Obligations.WindowStartNeverDecreases : Prop :=
  ∀ (i : Instr) (s t : State), BlockInv s → exec i s = .next t → i ≠ .reset → senderActive s →
    s.snd.windowStart.toNat ≤ t.snd.windowStart.toNat ∨ t.snd.status = .defensive ∧ t.snd.state = .terminated

/-- R48: `writeCursor` never decreases within a session. -/
def Obligations.WriteCursorNeverDecreases : Prop :=
  ∀ (i : Instr) (s t : State), BlockInv s → exec i s = .next t → i ≠ .reset → receiverActive s →
    s.rcv.writeCursor.toNat ≤ t.rcv.writeCursor.toNat

/-- R170, R173: every DATA the sender emits carries a sequence number of the file and that chunk. -/
def Obligations.EmittedDataIsTheFile : Prop :=
  ∀ (i : Instr) (s t : State) (os : List Output) (d : Datagram) (p : Packet), BlockInv s → exec i s = .next t →
    t.out = s.out ++ os → Output.tx .sender d ∈ os → decodePacket d = .ok p → p.op = 0x01#8 →
    ∃ img m, t.snd.file = some img ∧ t.snd.maxSequence = some m ∧ (p.seq.toNat : Int) ≤ m.toInt ∧
      m.toInt ≤ 2 ^ 32 - 2 ∧ p.seq ≠ 0xFFFFFFFF#32 ∧ p.payload = fileChunk img p.seq.toNat

/-- R228, step by step, in one receiver session whose sink holds the chunks below the cursor and whose slots
hold their chunks. Delivering a chunk of the file, or any step that stores none, keeps that while the session
runs, and keeps every number of the seen-set in it (R43). A chunk delivered below `writeCursor + RB_DEPTH`
enters the seen-set. A DONE that carries the chunk count ends SUCCESS if every chunk is in the seen-set, and
a SUCCESS closes a sink that holds exactly the file. -/
def Obligations.ReassemblyKeepsTheFile : Prop :=
  ∀ (path img : Bytes) (s t : State), BlockInv s → receiverActive s → Reassembled path img s →
    (∀ i : Instr,
      (∃ seq, i = .data .receiver seq (fileChunk img seq.toNat) ∧ (seq.toNat : Int) ≤ maxSequenceOf img.length) ∨
        storesNoChunk i = true →
      exec i s = .next t → receiverActive t →
      Reassembled path img t ∧ ∀ n, seen s n = true → seen t n = true) ∧
    (∀ seq : SeqNo, img.length ≤ fileSizeMax → (seq.toNat : Int) ≤ maxSequenceOf img.length →
      seq.toNat < s.rcv.writeCursor.toNat + s.cfg.rbDepth →
      exec (.data .receiver seq (fileChunk img seq.toNat)) s = .next t →
      receiverActive t ∧ seen t seq.toNat = true) ∧
    (∀ seq : SeqNo, (seq.toNat : Int) = maxSequenceOf img.length + 1 → exec (.done .receiver seq) s = .next t →
      ((∀ n : Nat, (n : Int) ≤ maxSequenceOf img.length → seen s n = true) → t.rcv.status = .success) ∧
      (t.rcv.status = .success → sinkLog t = .closed path img .success))

/-- R228, a whole session: FETCH, then every chunk of the file in any order and with any duplicates, each
below `writeCursor + RB_DEPTH` at its arrival, then the DONE: the sink is closed SUCCESS with exactly the file. -/
def Obligations.ChunksInAnyOrderGiveTheFile : Prop :=
  ∀ (path img : Bytes) (s0 s t : State) (got : List Nat) (seq : SeqNo), BlockInv s0 → ¬ receiverActive s0 →
    path.length ≤ chunkSize → exec (.fetch path) s0 = .next s → img.length ≤ fileSizeMax →
    Delivery img s got t → (∀ k : Nat, (k : Int) ≤ maxSequenceOf img.length → k ∈ got) →
    (seq.toNat : Int) = maxSequenceOf img.length + 1 →
    ∃ u, exec (.done .receiver seq) t = .next u ∧ u.rcv.status = .success ∧ sinkLog u = .closed path img .success

/-- R304: two conforming engines linked by a channel whose corruptions are detectable, launched by R292 on
a clean channel, at every state of every run. That the instances are fresh is the model's choice (log 20). -/
def Obligations.ConformingPeersStayInStep : Prop :=
  ∀ (ca cb : Config) (path : Bytes) (l0 l : Link), ca.wf = true → cb.wf = true →
    Link.launched ca cb path l0 → Link.Run .detectable l0 l →
    l.a.snd.windowStart.toNat ≤ l.b.rcv.writeCursor.toNat ∧
    (∀ d p m, l.offered .detectable (.toSender d) → decodePacket d = .ok p → p.op = 0x02#8 →
      l.a.snd.state = .sendWait → l.a.snd.maxSequence = some m →
      ((ackNext p).toNat : Int) ≤ l.a.snd.windowEnd.toInt + 1 ∧ ((ackNext p).toNat : Int) ≤ m.toInt + 1) ∧
    (∀ d p, l.offered .detectable (.toReceiver d) → decodePacket d = .ok p → p.op = 0x01#8 →
      receiverActive l.b → p.seq.toNat ≤ l.b.rcv.writeCursor.toNat + 4)

/-- R305 (c), its safety part, for every run and with no fairness: when the receiver ends SUCCESS, its
closed output is the file the path names at the sender. The link is the model's (log 20). -/
def Obligations.SuccessDeliversTheFile : Prop :=
  ∀ (ca cb : Config) (path : Bytes) (l0 l : Link), ca.wf = true → cb.wf = true →
    Link.launched ca cb path l0 → Link.Run .detectable l0 l → l.b.rcv.status = .success →
    ∃ img, ca.fs.lookup path = some img ∧ img.length ≤ fileSizeMax ∧ sinkView l.b = .closed path img .success

/-- R305 (a) and (b), in every fair run of a launched transfer with detectable corruption. Once the sender has
left `S_AWAIT_REQ` its session ends (R299 item 3: without a request it waits on). The receiver's session ends
unless items 1, 3 or 4 of R299 occur, and with a cap in any case. The model's choices (log 20): the launch on
fresh instances, and with a cap a channel that duplicates finitely, without which R78 lets old packets clear
the counts of timeouts forever. -/
def Obligations.FairTransfersEnd : Prop :=
  ∀ (ca cb : Config) (path : Bytes) (l : Nat → Link) (ev : Nat → LinkEvent), ca.wf = true → cb.wf = true →
    ca.retryCap = cb.retryCap → path.length ≤ chunkSize → Link.launched ca cb path (l 0) →
    infiniteRun .detectable l ev → channelFair l ev → weaklyFair .detectable l ev →
    (cb.retryCap = none ∨ duplicatesFinitely l ev) →
    ((∃ n, (l n).a.snd.state ≠ .awaitReq) → ∃ n, (l n).a.snd.state = .terminated) ∧
    (decisivePacketsArrive l ev ∨ cb.retryCap ≠ none →
      ∃ n, (l n).b.rcv.state ∈ [.flushedOnDone, .abortedOnMissing, .failed])
end

