-- ==== Sys2Proof/Laws/State.lean ====
section
/-! SUPPORT. One lemma per field per update of the state, true by definition. -/

namespace Sys2Proof.Machine

open Sys2Proof

@[simp] theorem mapS_cfg (s : State) (f : Sender → Sender) : (s.mapS f).cfg = s.cfg := rfl
@[simp] theorem mapS_snd (s : State) (f : Sender → Sender) : (s.mapS f).snd = f s.snd := rfl
@[simp] theorem mapS_rcv (s : State) (f : Sender → Sender) : (s.mapS f).rcv = s.rcv := rfl
@[simp] theorem mapS_inputs (s : State) (f : Sender → Sender) : (s.mapS f).inputs = s.inputs := rfl
@[simp] theorem mapS_out (s : State) (f : Sender → Sender) : (s.mapS f).out = s.out := rfl

@[simp] theorem mapR_cfg (s : State) (f : Receiver → Receiver) : (s.mapR f).cfg = s.cfg := rfl
@[simp] theorem mapR_snd (s : State) (f : Receiver → Receiver) : (s.mapR f).snd = s.snd := rfl
@[simp] theorem mapR_rcv (s : State) (f : Receiver → Receiver) : (s.mapR f).rcv = f s.rcv := rfl
@[simp] theorem mapR_inputs (s : State) (f : Receiver → Receiver) : (s.mapR f).inputs = s.inputs := rfl
@[simp] theorem mapR_out (s : State) (f : Receiver → Receiver) : (s.mapR f).out = s.out := rfl

@[simp] theorem output_cfg (s : State) (o : Output) : (s.output o).cfg = s.cfg := rfl
@[simp] theorem output_snd (s : State) (o : Output) : (s.output o).snd = s.snd := rfl
@[simp] theorem output_rcv (s : State) (o : Output) : (s.output o).rcv = s.rcv := rfl
@[simp] theorem output_inputs (s : State) (o : Output) : (s.output o).inputs = s.inputs := rfl
@[simp] theorem output_out (s : State) (o : Output) : (s.output o).out = s.out ++ [o] := rfl

@[simp] theorem outputs_cfg (s : State) (os : List Output) : (s.outputs os).cfg = s.cfg := rfl
@[simp] theorem outputs_snd (s : State) (os : List Output) : (s.outputs os).snd = s.snd := rfl
@[simp] theorem outputs_rcv (s : State) (os : List Output) : (s.outputs os).rcv = s.rcv := rfl
@[simp] theorem outputs_inputs (s : State) (os : List Output) : (s.outputs os).inputs = s.inputs := rfl
@[simp] theorem outputs_out (s : State) (os : List Output) : (s.outputs os).out = s.out ++ os := rfl

@[simp] theorem respond_cfg (c : CmdCode) (s : State) : (respond c s).cfg = s.cfg := rfl
@[simp] theorem respond_snd (c : CmdCode) (s : State) : (respond c s).snd = s.snd := rfl
@[simp] theorem respond_rcv (c : CmdCode) (s : State) : (respond c s).rcv = s.rcv := rfl
@[simp] theorem respond_inputs (c : CmdCode) (s : State) : (respond c s).inputs = s.inputs := rfl
@[simp] theorem respond_out (c : CmdCode) (s : State) : (respond c s).out = s.out ++ [.cmdResp c] := rfl

@[simp] theorem raiseDrop_cfg (e : Engine) (c : DropClass) (s : State) : (raiseDrop e c s).cfg = s.cfg := by
  cases e <;> rfl
@[simp] theorem raiseDrop_inputs (e : Engine) (c : DropClass) (s : State) : (raiseDrop e c s).inputs = s.inputs := by
  cases e <;> rfl
@[simp] theorem raiseDrop_out (e : Engine) (c : DropClass) (s : State) : (raiseDrop e c s).out = s.out := by
  cases e <;> rfl
@[simp] theorem raiseDrop_sender_snd (c : DropClass) (s : State) :
    (raiseDrop .sender c s).snd = { s.snd with lastDrop := c } := rfl
@[simp] theorem raiseDrop_sender_rcv (c : DropClass) (s : State) : (raiseDrop .sender c s).rcv = s.rcv := rfl
@[simp] theorem raiseDrop_receiver_rcv (c : DropClass) (s : State) :
    (raiseDrop .receiver c s).rcv = { s.rcv with lastDrop := c } := rfl
@[simp] theorem raiseDrop_receiver_snd (c : DropClass) (s : State) : (raiseDrop .receiver c s).snd = s.snd := rfl

@[simp] theorem clearTimeouts_cfg (e : Engine) (s : State) : (clearTimeouts e s).cfg = s.cfg := by cases e <;> rfl
@[simp] theorem clearTimeouts_inputs (e : Engine) (s : State) : (clearTimeouts e s).inputs = s.inputs := by
  cases e <;> rfl
@[simp] theorem clearTimeouts_out (e : Engine) (s : State) : (clearTimeouts e s).out = s.out := by cases e <;> rfl
@[simp] theorem clearTimeouts_sender_snd (s : State) :
    (clearTimeouts .sender s).snd = { s.snd with toCount := 0 } := rfl
@[simp] theorem clearTimeouts_sender_rcv (s : State) : (clearTimeouts .sender s).rcv = s.rcv := rfl
@[simp] theorem clearTimeouts_receiver_rcv (s : State) :
    (clearTimeouts .receiver s).rcv = { s.rcv with toCount := 0 } := rfl
@[simp] theorem clearTimeouts_receiver_snd (s : State) : (clearTimeouts .receiver s).snd = s.snd := rfl

@[simp] theorem terminateS_cfg (st : EndStatus) (s : State) : (terminateS st s).cfg = s.cfg := rfl
@[simp] theorem terminateS_snd (st : EndStatus) (s : State) :
    (terminateS st s).snd = { s.snd with status := st, state := .terminated } := rfl
@[simp] theorem terminateS_rcv (st : EndStatus) (s : State) : (terminateS st s).rcv = s.rcv := rfl
@[simp] theorem terminateS_inputs (st : EndStatus) (s : State) : (terminateS st s).inputs = s.inputs := rfl
@[simp] theorem terminateS_out (st : EndStatus) (s : State) :
    (terminateS st s).out = s.out ++ [.endSession .sender st] := rfl

@[simp] theorem terminateR_cfg (st : EndStatus) (r : RState) (s : State) : (terminateR st r s).cfg = s.cfg := rfl
@[simp] theorem terminateR_snd (st : EndStatus) (r : RState) (s : State) : (terminateR st r s).snd = s.snd := rfl
@[simp] theorem terminateR_rcv (st : EndStatus) (r : RState) (s : State) :
    (terminateR st r s).rcv = { s.rcv with status := st, state := r } := rfl
@[simp] theorem terminateR_inputs (st : EndStatus) (r : RState) (s : State) :
    (terminateR st r s).inputs = s.inputs := rfl
@[simp] theorem terminateR_out (st : EndStatus) (r : RState) (s : State) :
    (terminateR st r s).out = s.out ++ [.endSession .receiver st] := rfl

end Sys2Proof.Machine
end

