-- ==== Sys2Proof/Laws/Ops.lean ====
section
/-! SUPPORT. For each shared operation, one lemma that says everything it can do. -/

namespace Sys2Proof.Machine

open Sys2Proof

/-- `outcome` answers a next state exactly where the procedure does. -/
theorem outcome_eq_next {r : Res State} {t : State} : outcome r = .next t ↔ r = .ok t := by
  rcases r with (f | f) | u <;> simp [outcome]

theorem readReg_eq_ok {α : Type} {reg : NoValueReg} {v : Option α} {x : α} :
    readReg reg v = .ok x ↔ v = some x := by
  cases v <;> simp [readReg]

theorem collect_eq_ok {α β : Type} {f : α → Res β} {l : List α} {bs : List β} :
    collect f l = .ok bs ↔ List.Forall₂ (fun a b => f a = .ok b) l bs := by
  induction l generalizing bs with
  | nil => simp [collect, eq_comm]
  | cons a as ih =>
    rcases hf : f a with e | b
    · constructor
      · simp [collect, hf]
      · rintro (_ | ⟨hb, -⟩)
        simp [hf] at hb
    · rcases hc : collect f as with e | cs
      · constructor
        · simp [collect, hf, hc]
        · rintro (_ | ⟨-, hb⟩)
          simp [ih.mpr hb] at hc
      · constructor
        · intro h
          simp only [collect, hf, hc, Except.ok.injEq] at h
          exact h ▸ .cons hf (ih.mp hc)
        · rintro (_ | ⟨hb, hbs⟩)
          simp only [ih.mpr hbs, Except.ok.injEq] at hc
          simp only [hf, Except.ok.injEq] at hb
          simp [collect, hf, ih.mpr hbs, hb]

/-- A collection whose every element answers is the list of the answers. -/
theorem collect_eq_map {α β : Type} {f : α → Res β} {g : α → β} {l : List α} (h : ∀ a ∈ l, f a = .ok (g a)) :
    collect f l = .ok (l.map g) := by
  rw [collect_eq_ok, List.forall₂_map_right_iff, List.forall₂_same]
  exact h

/-- R124, R128: Encode answers exactly on its preconditions, and then with the framed packet. -/
theorem encodeOrRefuse_eq_ok {op : Byte} {seq : Nat} {payload d : Bytes} :
    encodeOrRefuse op seq payload = .ok d ↔
      (op.toNat ≤ 6 ∧ seq < 2 ^ 32 ∧ payload.length ≤ chunkSize) ∧ d = frame op (BitVec.ofNat 32 seq) payload := by
  unfold encodeOrRefuse encodePacket
  split_ifs with h
  · simp only [Except.ok.injEq, h, and_self, true_and]
    exact eq_comm
  · exact ⟨nofun, fun hd => absurd hd.1 h⟩

/-- R15: an Emit answers exactly where Encode does, and appends the packet. -/
theorem emitPacket_eq_ok {e : Engine} {op : Byte} {seq : Nat} {payload : Bytes} {s t : State} :
    emitPacket e op seq payload s = .ok t ↔
      (op.toNat ≤ 6 ∧ seq < 2 ^ 32 ∧ payload.length ≤ chunkSize) ∧
        t = s.output (.tx e (frame op (BitVec.ofNat 32 seq) payload)) := by
  unfold emitPacket
  rcases h : encodeOrRefuse op seq payload with c | d
  · constructor
    · simp
    · rintro ⟨hd, -⟩
      simp [encodeOrRefuse_eq_ok.mpr ⟨hd, rfl⟩] at h
  · obtain ⟨hd, rfl⟩ := encodeOrRefuse_eq_ok.mp h
    simp only [Except.ok.injEq, hd, and_self, true_and]
    exact eq_comm

/-- R63: a `FileRead` answers exactly inside the file. -/
theorem fileRead_eq_ok {s : State} {off n : Nat} {b : Bytes} :
    fileRead s off n = .ok b ↔
      ∃ size img, s.snd.fileSize = some size ∧ s.snd.file = some img ∧
        off + n ≤ size.toNat ∧ off + n ≤ img.length ∧ b = slice img off n := by
  unfold fileRead
  rcases hs : s.snd.fileSize with _ | size <;> rcases hf : s.snd.file with _ | img <;> simp [readReg]
  split_ifs with h
  · simp [h, eq_comm]
  · simpa using fun h1 h2 => (h ⟨h1, h2⟩).elim

/-- R62: the file store's lookup is the library's, the first entry of a path first (log 3). -/
theorem lookupFile_eq_lookup (fs : List (Bytes × Bytes)) (path : Bytes) : lookupFile fs path = fs.lookup path := by
  induction fs with
  | nil => rfl
  | cons e rest ih =>
    obtain ⟨p, img⟩ := e
    by_cases h : p = path
    · simp [lookupFile, h]
    · rw [List.lookup_cons, beq_false_of_ne (Ne.symm h)]
      simp [lookupFile, h, ih]

/-- R62: `FileOpen` finds a file exactly where the store has one within the bound. -/
theorem fileOpen_eq_some {s : State} {path img : Bytes} :
    fileOpen s path = some img ↔ s.cfg.fs.lookup path = some img ∧ img.length ≤ fileSizeMax := by
  unfold fileOpen
  rw [lookupFile_eq_lookup]
  rcases s.cfg.fs.lookup path with _ | b
  · simp
  · simp only [Option.ite_none_right_eq_some, Option.some.injEq]
    constructor
    · rintro ⟨h, rfl⟩
      exact ⟨rfl, h⟩
    · rintro ⟨rfl, h⟩
      exact ⟨h, rfl⟩

/-- R62: what an opened file can be. -/
theorem fileOpen_length_le {s : State} {path img : Bytes} (h : fileOpen s path = some img) :
    img.length ≤ fileSizeMax := by
  unfold fileOpen at h
  split at h
  · split_ifs at h with hl
    exact Option.some.inj h ▸ hl
  · cases h

/-- A slot filled with at most 1015 bytes gives them back. -/
theorem Slot.bytes_ofBytes {b : Bytes} (h : b.length ≤ chunkSize) : (Slot.ofBytes b).bytes = b := by
  have hb : b.length % 1024 = b.length := Nat.mod_eq_of_lt (Nat.lt_of_le_of_lt h (by decide))
  simp [Slot.bytes, Slot.ofBytes, BitVec.toNat_ofNat, hb]

/-! The window's arithmetic (R12, R25, R27, R64). -/

theorem maxSequenceOf_range {n : Nat} (h : n ≤ fileSizeMax) :
    -1 ≤ maxSequenceOf n ∧ maxSequenceOf n ≤ 2 ^ 32 - 2 := by
  unfold maxSequenceOf ceilDiv
  have : fileSizeMax = 4359391804425 := by decide
  simp only [chunkSize] at *
  omega

theorem toInt_ofInt_bound {v : Int} (h : -1 ≤ v ∧ v ≤ 2 ^ 32 - 2) : (BitVec.ofInt 33 v).toInt = v := by
  rw [BitVec.toInt_ofInt, Int.bmod_eq_of_le] <;> omega

theorem windowEndOf_range {start n : Nat} (h : n ≤ fileSizeMax) :
    -1 ≤ windowEndOf start (maxSequenceOf n) ∧ windowEndOf start (maxSequenceOf n) ≤ 2 ^ 32 - 2 := by
  have := maxSequenceOf_range h
  unfold windowEndOf
  omega

/-- R49: the window holds at most five chunks. -/
theorem windowCount_le {start n : Nat} : windowCount start (windowEndOf start (maxSequenceOf n)) ≤ windowSize := by
  unfold windowCount windowEndOf
  simp only [windowSize]
  omega

/-- R64, R173: a chunk up to the last lies inside the file. -/
theorem chunk_in_file {n k : Nat} (h : (k : Int) ≤ maxSequenceOf n) :
    chunkOffset k + chunkLength n k ≤ n := by
  unfold maxSequenceOf ceilDiv at h
  unfold chunkOffset chunkLength
  simp only [chunkSize] at *
  omega

theorem fileChunk_length_le (img : Bytes) (k : Nat) : (fileChunk img k).length ≤ chunkSize := by
  simp [fileChunk, slice, chunkLength]

/-- R156, R160: reading chunk `seq` of the open file gives that chunk. -/
theorem readChunk_eq {s : State} {img : Bytes} {seq : Nat} (ho : FileOpened s.snd img)
    (h : (seq : Int) ≤ maxSequenceOf img.length) : readChunk s seq = .ok (Slot.ofBytes (fileChunk img seq)) := by
  have hsize : (BitVec.ofNat 42 img.length).toNat = img.length := by
    rw [BitVec.toNat_ofNat]
    exact Nat.mod_eq_of_lt (Nat.lt_of_le_of_lt ho.size_le (by decide))
  have hin := chunk_in_file h
  have hr : fileRead s (chunkOffset seq) (chunkLength img.length seq) = .ok (fileChunk img seq) :=
    fileRead_eq_ok.mpr ⟨_, img, ho.fileSize_eq, ho.file_eq, by rw [hsize]; exact hin, hin, rfl⟩
  unfold readChunk
  simp only [ho.fileSize_eq, readReg]
  rw [hsize, hr]

/-- R158: a buffered window is sent as the DATA packets of its chunks. -/
theorem transmitWindow_eq {s : State} {img : Bytes} (hb : WindowBuffered s.snd img) :
    transmitWindow s = .ok (s.outputs
      (dataBurst img s.snd.windowStart.toNat (windowCount s.snd.windowStart.toNat s.snd.windowEnd.toInt))) := by
  unfold transmitWindow dataBurst
  have h : ∀ k ∈ List.range (windowCount s.snd.windowStart.toNat s.snd.windowEnd.toInt),
      windowPacket s k = .ok (.tx .sender (frame 0x01#8 (BitVec.ofNat 32 (s.snd.windowStart.toNat + k))
        (fileChunk img (s.snd.windowStart.toNat + k)))) := by
    intro k hk
    have hk := List.mem_range.mp hk
    have hlt : s.snd.windowStart.toNat + k < 2 ^ 32 := by
      have h1 := BitVec.two_mul_toInt_lt (x := s.snd.windowEnd)
      unfold windowCount at hk
      omega
    unfold windowPacket readSlot
    simp only [hb k hk, readReg, Slot.bytes_ofBytes (fileChunk_length_le img _)]
    rw [encodeOrRefuse_eq_ok.mpr ⟨⟨by decide, hlt, fileChunk_length_le img _⟩, rfl⟩]
  rw [collect_eq_map h]

/-- R157 on an open file whose window is buffered. -/
theorem sendOrFinish_eq {s : State} {img : Bytes} (ho : FileOpened s.snd img) (hb : WindowBuffered s.snd img) :
    sendOrFinish s = .ok (
      if maxSequenceOf img.length < (s.snd.windowStart.toNat : Int) then
        (s.output (.tx .sender (frame 0x05#8 s.snd.windowStart []))).mapS fun x => { x with state := .doneWait }
      else
        (s.outputs (dataBurst img s.snd.windowStart.toNat
          (windowCount s.snd.windowStart.toNat s.snd.windowEnd.toInt))).mapS fun x => { x with state := .sendWait }) := by
  have hm := toInt_ofInt_bound (maxSequenceOf_range ho.size_le)
  unfold sendOrFinish readMaxSequence
  simp only [ho.maxSequence_eq, readReg, hm]
  split_ifs with h
  · rw [emitPacket_eq_ok.mpr ⟨⟨by decide, s.snd.windowStart.isLt, by decide⟩, rfl⟩]
    simp
  · rw [transmitWindow_eq hb]

/-- A slot of the window that holds chunk `start + k`. -/
theorem chunkSlots_getD {img : Bytes} {start n k : Nat} {l : List (Option Slot)} (h : k < n) :
    (chunkSlots img start n ++ l).getD k none = some (Slot.ofBytes (fileChunk img (start + k))) := by
  rw [List.getD_append _ _ _ _ (by simpa [chunkSlots] using h)]
  simp [chunkSlots, h]

/-- R156 on an open file: the window's slots hold its chunks, the others what they held. -/
theorem fill_eq {s : State} {img : Bytes} (ho : FileOpened s.snd img) (hb : WindowBounded s.snd img) :
    fill s = .ok (s.mapS fun x => { x with
      wbuf := chunkSlots img s.snd.windowStart.toNat (windowCount s.snd.windowStart.toNat s.snd.windowEnd.toInt) ++
        x.wbuf.drop (windowCount s.snd.windowStart.toNat s.snd.windowEnd.toInt) }) := by
  unfold fill
  rw [collect_eq_map (g := fun k => Slot.ofBytes (fileChunk img (s.snd.windowStart.toNat + k)))]
  · simp [chunkSlots]
    rfl
  · intro k hk
    have hk := List.mem_range.mp hk
    apply readChunk_eq ho
    unfold WindowBounded at hb
    simp only [hb, windowCount, windowEndOf] at hk
    omega

/-- R160 on an open file whose window is buffered: the slid window holds its chunks, the slots past it no value. -/
theorem refill_eq {s : State} {img : Bytes} {next : SeqNo} (ho : FileOpened s.snd img) (hw : WindowBuffered s.snd img)
    (hn : s.snd.windowStart.toNat < next.toNat) :
    refill s.snd.windowStart.toNat s.snd.windowEnd.toInt (advanceWindow next (maxSequenceOf img.length) s) =
      .ok (s.mapS fun x => { x with
        windowStart := next
        windowEnd := BitVec.ofInt 33 (windowEndOf next.toNat (maxSequenceOf img.length))
        wbuf := chunkSlots img next.toNat (windowCount next.toNat (windowEndOf next.toNat (maxSequenceOf img.length))) ++
          List.replicate (5 - windowCount next.toNat (windowEndOf next.toNat (maxSequenceOf img.length))) none }) := by
  have hr := toInt_ofInt_bound (windowEndOf_range (start := next.toNat) ho.size_le)
  unfold refill
  rw [collect_eq_map (g := fun k => Slot.ofBytes (fileChunk img (next.toNat + k)))]
  · simp [chunkSlots, advanceWindow, hr, State.mapS, Function.comp_def]
  · intro k hk
    have hk := List.mem_range.mp hk
    simp only [advanceWindow, mapS_snd, hr] at hk
    have h1 : (advanceWindow next (maxSequenceOf img.length) s).snd.windowStart = next := rfl
    have h2 : (advanceWindow next (maxSequenceOf img.length) s).snd.wbuf = s.snd.wbuf := rfl
    unfold refillSlot
    rw [h1, h2]
    by_cases h : ((next.toNat + k : Nat) : Int) ≤ s.snd.windowEnd.toInt
    · have e : s.snd.windowStart.toNat + (next.toNat + k - s.snd.windowStart.toNat) = next.toNat + k := by omega
      have hk' := hw (next.toNat + k - s.snd.windowStart.toNat) (by unfold windowCount; omega)
      rw [if_pos h]
      unfold readSlot
      rw [hk', e]
      rfl
    · rw [if_neg h]
      apply readChunk_eq (by exact ⟨ho.1, ho.2, ho.3, ho.4⟩)
      simp only [windowCount, windowEndOf] at hk
      omega

/-! The reorder buffer (R222 to R224). -/

theorem validPrefix_cons_some (slot : Slot) (rest : List (Option Slot)) :
    validPrefix (some slot :: rest) = some slot :: validPrefix rest := by simp [validPrefix]

theorem validPrefix_cons_none (rest : List (Option Slot)) : validPrefix (none :: rest) = [] := by
  simp [validPrefix]

theorem validPrefix_nil : validPrefix [] = [] := rfl

theorem validPrefix_length_le (rb : List (Option Slot)) : (validPrefix rb).length ≤ rb.length :=
  (List.takeWhile_sublist _).length_le

/-- Empty slots appended behind change nothing of the valid prefix. -/
theorem validPrefix_append_none (rb : List (Option Slot)) (n : Nat) :
    validPrefix (rb ++ List.replicate n none) = validPrefix rb := by
  induction rb with
  | nil => cases n <;> simp [validPrefix, List.replicate_succ]
  | cons a t ih => cases a <;> simp_all [validPrefix]

theorem flushLoop_eq (n : Nat) (s : State) (h : (validPrefix s.rcv.rb).length ≤ n) : flushLoop n s = flushed s := by
  induction n generalizing s with
  | zero =>
    have h0 : validPrefix s.rcv.rb = [] := List.eq_nil_of_length_eq_zero (Nat.le_zero.mp h)
    simp [flushLoop, flushed, h0]
  | succ n ih =>
    rcases hrb : s.rcv.rb with _ | ⟨_ | slot, rest⟩
    · simp [flushLoop, flushed, hrb, validPrefix_nil]
      rcases s with ⟨cfg, snd, rcv, inputs, out⟩
      cases rcv
      simp_all
    · simp [flushLoop, flushed, hrb, validPrefix_cons_none]
      rcases s with ⟨cfg, snd, rcv, inputs, out⟩
      cases rcv
      simp_all
    · have hv := validPrefix_append_none rest 1
      simp only [List.replicate_one] at hv
      simp only [flushLoop, hrb]
      rw [ih]
      · simp only [flushed, mapR_rcv, output_rcv, hrb, hv, validPrefix_cons_some, mapR_out, output_out, List.length_cons,
          List.map_cons, List.append_assoc, List.singleton_append, List.drop_succ_cons, writeOf, Option.map_some,
          Option.getD_some, mapR_cfg, output_cfg]
        have hle := validPrefix_length_le rest
        have hd : (rest ++ [none]).drop (validPrefix rest).length = rest.drop (validPrefix rest).length ++ [none] :=
          List.drop_append_of_le_length hle
        have hc : (1#32 : SeqNo) + BitVec.ofNat 32 (validPrefix rest).length =
            BitVec.ofNat 32 ((validPrefix rest).length + 1) := by
          rw [Nat.add_comm, BitVec.ofNat_add]
        rw [hd, List.append_assoc, List.singleton_append, BitVec.add_assoc, hc]
        rfl
      · simpa [hv, validPrefix_cons_some, hrb] using h

/-- R223: `Flush()` writes the valid prefix, advances the cursor past it and shifts the slots. -/
theorem flush_eq (s : State) : flush s = flushed s :=
  flushLoop_eq _ s (validPrefix_length_le _)

/-- R52: after a flush slot 0 is not valid. -/
theorem countValid_flushed (s : State) : countValid (flushed s).rcv.rb = 0 := by
  suffices h : ∀ rb : List (Option Slot), ∀ n,
      countValid (rb.drop (validPrefix rb).length ++ List.replicate n none) = 0 from h _ _
  intro rb n
  induction rb with
  | nil => cases n <;> simp [validPrefix, countValid, List.replicate_succ]
  | cons a t ih =>
    cases a with
    | none => simp [validPrefix, countValid]
    | some slot => simpa [validPrefix_cons_some] using ih

/-- Every slot of the valid prefix is valid. -/
theorem validPrefix_get {rb : List (Option Slot)} {k : Nat} (h : k < (validPrefix rb).length) :
    ∃ slot, rb[k]? = some (some slot) := by
  induction rb generalizing k with
  | nil => simp [validPrefix] at h
  | cons a t ih =>
    cases a with
    | none => simp [validPrefix] at h
    | some slot =>
      cases k with
      | zero => exact ⟨slot, rfl⟩
      | succ k =>
        simp only [validPrefix_cons_some, List.length_cons, Nat.add_lt_add_iff_right] at h
        simpa using ih h

/-- R223: a flush keeps the number of slots. -/
theorem flushed_rb_length (s : State) : (flushed s).rcv.rb.length = s.rcv.rb.length := by
  have := validPrefix_length_le s.rcv.rb
  simp [flushed]
  omega

/-- R223: a slot valid after a flush was valid before, further along by the number of slots written. -/
theorem flushed_get {s : State} {k : Nat} {slot : Slot} (h : (flushed s).rcv.rb[k]? = some (some slot)) :
    s.rcv.rb[k + (validPrefix s.rcv.rb).length]? = some (some slot) := by
  simp only [flushed] at h
  rw [List.getElem?_append] at h
  split_ifs at h with h1
  · rw [List.getElem?_drop] at h
    rw [Nat.add_comm]
    exact h
  · rw [List.getElem?_replicate] at h
    split_ifs at h
    simp at h

/-- R35, R223: where no valid slot stands for 2^32 - 1, the cursor goes up by the number of slots written. -/
theorem flushed_writeCursor {s : State}
    (h : ∀ k slot, s.rcv.rb[k]? = some (some slot) → s.rcv.writeCursor.toNat + k < 2 ^ 32 - 1) :
    (flushed s).rcv.writeCursor.toNat = s.rcv.writeCursor.toNat + (validPrefix s.rcv.rb).length := by
  have hlt : s.rcv.writeCursor.toNat + (validPrefix s.rcv.rb).length < 2 ^ 32 := by
    by_cases h0 : (validPrefix s.rcv.rb).length = 0
    · rw [h0]
      exact s.rcv.writeCursor.isLt
    · obtain ⟨slot, hs⟩ := validPrefix_get (rb := s.rcv.rb) (k := (validPrefix s.rcv.rb).length - 1) (by omega)
      have := h _ _ hs
      omega
  simp only [flushed, BitVec.toNat_add, BitVec.toNat_ofNat]
  omega

/-- R43: what the seen-set holds, by the cursor and the slots. -/
theorem seen_eq_true {s : State} {n : Nat} :
    seen s n = true ↔ n < s.rcv.writeCursor.toNat ∨
      ∃ k slot, n = s.rcv.writeCursor.toNat + k ∧ s.rcv.rb[k]? = some (some slot) := by
  unfold seen
  rw [List.getD_eq_getElem?_getD]
  split_ifs with h
  · simp [h]
  · constructor
    · intro hs
      rcases hg : s.rcv.rb[n - s.rcv.writeCursor.toNat]? with _ | _ | slot
      · simp [hg] at hs
      · simp [hg] at hs
      · exact .inr ⟨_, slot, by omega, hg⟩
    · rintro (hn | ⟨k, slot, rfl, hk⟩)
      · exact absurd hn h
      · simp [hk]

/-- R43, R223: a flush takes nothing out of the seen-set and puts nothing in. -/
theorem seen_flushed {s : State} {n : Nat}
    (h : ∀ k slot, s.rcv.rb[k]? = some (some slot) → s.rcv.writeCursor.toNat + k < 2 ^ 32 - 1) :
    seen (flushed s) n = seen s n := by
  have hc := flushed_writeCursor h
  rw [Bool.eq_iff_iff, seen_eq_true, seen_eq_true, hc]
  constructor
  · rintro (hn | ⟨k, slot, rfl, hk⟩)
    · by_cases hn' : n < s.rcv.writeCursor.toNat
      · exact .inl hn'
      · obtain ⟨slot, hs⟩ := validPrefix_get (rb := s.rcv.rb) (k := n - s.rcv.writeCursor.toNat) (by omega)
        exact .inr ⟨_, slot, by omega, hs⟩
    · exact .inr ⟨_, slot, by omega, flushed_get hk⟩
  · rintro (hn | ⟨k, slot, rfl, hk⟩)
    · exact .inl (by omega)
    · by_cases hp : k < (validPrefix s.rcv.rb).length
      · exact .inl (by omega)
      · refine .inr ⟨k - (validPrefix s.rcv.rb).length, slot, by omega, ?_⟩
        have hk' := (List.getElem?_eq_some_iff.mp hk).1
        simp only [flushed]
        rw [List.getElem?_append_left (by rw [List.length_drop]; omega), List.getElem?_drop,
          show (validPrefix s.rcv.rb).length + (k - (validPrefix s.rcv.rb).length) = k by omega]
        exact hk

/-! Legal slots (R28, R36) and their view (R41). -/

/-- What a slot of a buffer holds, by the buffer's own index. -/
theorem slotAt_eq_some {slots : List (Option Slot)} {k : Nat} {slot : Slot} :
    slotAt slots k = some slot ↔ slots[k]? = some (some slot) := by
  unfold slotAt
  rw [List.getD_eq_getElem?_getD]
  cases slots[k]? <;> simp

/-- A slot filled with at most 1015 bytes is legal. -/
theorem slotLegal_ofBytes {b : Bytes} (h : b.length ≤ chunkSize) : SlotLegal (Slot.ofBytes b) := by
  have hb : b.length % 1024 = b.length := Nat.mod_eq_of_lt (Nat.lt_of_le_of_lt h (by decide))
  exact ⟨h, by simp [Slot.ofBytes, hb]⟩

theorem slotsLegal_replicate_none (n : Nat) : SlotsLegal (List.replicate n none) := by
  intro k slot h
  simp [List.getElem?_replicate] at h

theorem slotsLegal_drop {slots : List (Option Slot)} (h : SlotsLegal slots) (n : Nat) : SlotsLegal (slots.drop n) := by
  intro k slot hk
  rw [List.getElem?_drop] at hk
  exact h _ _ hk

/-- R156, R160: the window's slots, before what the buffer keeps. -/
theorem slotsLegal_chunkSlots_append {img : Bytes} {start n : Nat} {slots : List (Option Slot)} (h : SlotsLegal slots) :
    SlotsLegal (chunkSlots img start n ++ slots) := by
  intro k slot hk
  rw [List.getElem?_append] at hk
  split_ifs at hk
  · simp only [chunkSlots, List.getElem?_map, Option.map_eq_some_iff, Option.some.injEq] at hk
    obtain ⟨_, _, rfl⟩ := hk
    exact slotLegal_ofBytes (fileChunk_length_le _ _)
  · exact h _ _ hk

/-- R211: a slot filled with a payload. -/
theorem slotsLegal_set {slots : List (Option Slot)} {k : Nat} {b : Bytes} (h : SlotsLegal slots)
    (hb : b.length ≤ chunkSize) : SlotsLegal (slots.set k (some (Slot.ofBytes b))) := by
  intro j slot hj
  rw [List.getElem?_set] at hj
  split_ifs at hj
  · cases hj
    exact slotLegal_ofBytes hb
  · exact h _ _ hj

/-- R223: a flush keeps the slots legal. -/
theorem slotsLegal_flushed {s : State} (h : SlotsLegal s.rcv.rb) : SlotsLegal (flushed s).rcv.rb :=
  fun _ _ hk => h _ _ (flushed_get hk)

/-- R222, R227: the ACK step always completes, and acknowledges the cursor. -/
theorem ackStep_eq (s : State) : ackStep s = .ok (acknowledged s) := by
  have hv : ackValue (flushed s) = (flushed s).rcv.writeCursor.toNat := by
    simp [ackValue, countValid_flushed]
  unfold ackStep
  rw [flush_eq, hv, emitPacket_eq_ok.mpr ⟨⟨by decide, (flushed s).rcv.writeCursor.isLt, by simp [putBE32, chunkSize]⟩, rfl⟩]
  simp [acknowledged, ackPacket, State.mapR, State.output]

/-- R220: the batch epilogue always completes. -/
theorem batchCount_eq (s : State) : batchCount s = .ok (batchCounted s) := by
  unfold batchCount batchCounted
  rcases h : s.rcv.state <;> simp
  split_ifs
  · rw [ackStep_eq]
    simp [acknowledged, flushed, State.mapR]
  · simp [State.mapR]

end Sys2Proof.Machine
end

