-- ==== Sys2Proof/Laws/PerInstr.lean ====
section
/-! SUPPORT. A family over the instructions as syntax: the encoder writes only the codes R104 and R105 list, and an
operand only where they have one. -/

open Sys2Proof

namespace Sys2Proof.Laws

/-- R104, R105: the code is in the alphabet, and an operand stands only behind FETCH and the two RX codes. -/
def EncodesListedCode.Statement (i : Instr) : Prop :=
  (encode i).code ∈ [0x01#8, 0x10#8, 0x11#8, 0x20#8, 0x21#8, 0x30#8, 0x31#8, 0x41#8] ∧
  ((encode i).operand = [] ∨ (encode i).code ∈ [0x11#8, 0x20#8, 0x21#8]) ∧
  ((encode i).port = .command → (encode i).code ∈ [0x10#8, 0x11#8])

/-- R76: a delivery carries one of the two RX codes. -/
theorem delivery_listed (e : Engine) (d : Datagram) :
    (delivery e d).code ∈ [0x01#8, 0x10#8, 0x11#8, 0x20#8, 0x21#8, 0x30#8, 0x31#8, 0x41#8] ∧
    ((delivery e d).operand = [] ∨ (delivery e d).code ∈ [0x11#8, 0x20#8, 0x21#8]) ∧
    ((delivery e d).port = .command → (delivery e d).code ∈ [0x10#8, 0x11#8]) := by
  cases e <;> exact ⟨by simp [delivery, rxCode], .inr (by simp [delivery, rxCode]), nofun⟩

theorem EncodesListedCode.fileRequest (e : Engine) (seq : SeqNo) (path : Bytes) :
    EncodesListedCode.Statement (.fileRequest e seq path) := delivery_listed e _
theorem EncodesListedCode.data (e : Engine) (seq : SeqNo) (payload : Bytes) :
    EncodesListedCode.Statement (.data e seq payload) := delivery_listed e _
theorem EncodesListedCode.ack (e : Engine) (seq next : SeqNo) :
    EncodesListedCode.Statement (.ack e seq next) := delivery_listed e _
theorem EncodesListedCode.fileNotFound (e : Engine) (seq : SeqNo) :
    EncodesListedCode.Statement (.fileNotFound e seq) := delivery_listed e _
theorem EncodesListedCode.fileNotFoundAck (e : Engine) (seq : SeqNo) :
    EncodesListedCode.Statement (.fileNotFoundAck e seq) := delivery_listed e _
theorem EncodesListedCode.done (e : Engine) (seq : SeqNo) :
    EncodesListedCode.Statement (.done e seq) := delivery_listed e _
theorem EncodesListedCode.doneAck (e : Engine) (seq : SeqNo) :
    EncodesListedCode.Statement (.doneAck e seq) := delivery_listed e _
theorem EncodesListedCode.reset : EncodesListedCode.Statement .reset :=
  ⟨by simp [encode], .inl rfl, nofun⟩
theorem EncodesListedCode.serve : EncodesListedCode.Statement .serve :=
  ⟨by simp [encode], .inl rfl, fun _ => by simp [encode]⟩
theorem EncodesListedCode.fetch (path : Bytes) : EncodesListedCode.Statement (.fetch path) :=
  ⟨by simp [encode], .inr (by simp [encode]), fun _ => by simp [encode]⟩
theorem EncodesListedCode.rxS (d : Datagram) : EncodesListedCode.Statement (.rxS d) := delivery_listed .sender d
theorem EncodesListedCode.rxR (d : Datagram) : EncodesListedCode.Statement (.rxR d) := delivery_listed .receiver d
theorem EncodesListedCode.timeoutS : EncodesListedCode.Statement .timeoutS :=
  ⟨by simp [encode], .inl rfl, nofun⟩
theorem EncodesListedCode.timeoutR : EncodesListedCode.Statement .timeoutR :=
  ⟨by simp [encode], .inl rfl, nofun⟩
theorem EncodesListedCode.drainEnd : EncodesListedCode.Statement .drainEnd :=
  ⟨by simp [encode], .inl rfl, nofun⟩

end Sys2Proof.Laws
end

