-- ==== Sys2Proof/Machine/Spelling.lean ====
section
/-! DEFINITION. The textual spelling of packets, inputs and outputs (30_encoding.md R110) and the shorthand packets (R111).
No meaning reads it. -/

namespace Sys2Proof.Machine

open Sys2Proof

/-- R110: one hexadecimal digit. -/
def hexDigit (n : Nat) : String :=
  (["0", "1", "2", "3", "4", "5", "6", "7", "8", "9", "a", "b", "c", "d", "e", "f"]).getD (n % 16) "0"

/-- R110: a byte as two hexadecimal digits. -/
def hexByte (b : Byte) : String := hexDigit (b.toNat / 16) ++ hexDigit b.toNat

/-- R110: bytes in hexadecimal, byte 0 first. -/
def hexBytes (b : Bytes) : String := b.foldl (fun acc x => acc ++ hexByte x) ""

/-- R110: bytes as quoted ASCII. DESIGN CHOICE (log 23): a byte outside printable ASCII is the character of its
number. -/
def quoted (b : Bytes) : String :=
  "\"" ++ String.ofList (b.map fun x => Char.ofNat x.toNat) ++ "\""

/-- R96: the mnemonic of an opcode; a reserved opcode is spelled raw. -/
def packetName (op : Byte) : String :=
  match op.toNat with
  | 0 => "FILE_REQUEST"
  | 1 => "DATA"
  | 2 => "ACK"
  | 3 => "FILE_NOT_FOUND"
  | 4 => "FILE_NOT_FOUND_ACK"
  | 5 => "DONE"
  | 6 => "DONE_ACK"
  | _ => "raw"

/-- R110: a datagram: a packet with every field where it decodes, else raw bytes. -/
def spellDatagram (d : Datagram) : String :=
  match decodePacket d with
  | .ok p =>
    packetName p.op ++ " seq=" ++ toString p.seq.toNat ++ " len=" ++ toString p.len.toNat ++ " csum=0x" ++
      hexBytes (putBE16 p.csum) ++ " payload=" ++ hexBytes p.payload
  | .error _ => "raw " ++ hexBytes d

/-- R110: an engine. -/
def engineName : Engine → String
  | .sender => "S"
  | .receiver => "R"

/-- R257: the name of an end status. -/
def statusName : EndStatus → String
  | .none => "NONE"
  | .success => "SUCCESS"
  | .doneUnacked => "DONE_UNACKED"
  | .missingAcked => "MISSING_ACKED"
  | .missingUnacked => "MISSING_UNACKED"
  | .defensive => "DEFENSIVE"
  | .retryExhausted => "RETRY_EXHAUSTED"
  | .incomplete => "INCOMPLETE"
  | .fileMissing => "FILE_MISSING"

/-- R256: the name of a response code. -/
def respName : CmdCode → String
  | .ok => "OK"
  | .busy => "CMD_BUSY"
  | .badPath => "CMD_BAD_PATH"
  | .unknown => "CMD_UNKNOWN"

/-- R110: an output. DESIGN CHOICE (log 23): R110 spells no response to a command; it is spelled as R106 and R256
name it. -/
def spellOutput : Output → String
  | .tx e d => engineName e ++ " -> " ++ spellDatagram d
  | .sinkOpen path => "SINK_OPEN " ++ quoted path
  | .sinkWrite b => "SINK_WRITE " ++ toString b.length ++ " bytes"
  | .sinkClose st => "SINK_CLOSE " ++ statusName st
  | .sinkAbort => "SINK_ABORT"
  | .endSession e st => "END " ++ engineName e ++ " " ++ statusName st
  | .cmdResp c => "CMD_RESP " ++ respName c

/-- R110: a host command. DESIGN CHOICE (log 23): R110 spells no unknown command of R105; it is spelled with
its code and operand, never as the event of that code. -/
def spellCommand (code : Byte) (operand : Bytes) : String :=
  match code.toNat with
  | 0x10 => "S: SERVE"
  | 0x11 => "R: FETCH " ++ quoted operand
  | _ => "command 0x" ++ hexByte code ++ " " ++ hexBytes operand

/-- R110: an event. DESIGN CHOICE (log 23): R110 spells no reserved event code of R107; it is spelled with its
code and operand. -/
def spellEvent (code : Byte) (operand : Bytes) : String :=
  match code.toNat with
  | 0x01 => "RESET"
  | 0x10 => "S: SERVE"
  | 0x11 => "R: FETCH " ++ quoted operand
  | 0x20 => "S <- " ++ spellDatagram operand
  | 0x21 => "R <- " ++ spellDatagram operand
  | 0x30 => "S: TIMEOUT"
  | 0x31 => "R: TIMEOUT"
  | 0x41 => "R: DRAIN_END"
  | _ => "event 0x" ++ hexByte code ++ " " ++ hexBytes operand

/-- R110: an input, by the port it arrives on (log 9, log 23). -/
def spellInput (w : Input) : String :=
  match w.port with
  | .command => spellCommand w.code w.operand
  | .event => spellEvent w.code w.operand

/-- R111 `ACK next=<n>`, `none` where Encode has no meaning (R128). -/
def shortAck (next : Nat) : Option Datagram := encodePacket 0x02#8 next (putBE32 (BitVec.ofNat 32 next))

/-- R111 `DATA <k>` of the file in context. -/
def shortData (img : Bytes) (k : Nat) : Option Datagram :=
  encodePacket 0x01#8 k (slice img (chunkOffset k) (chunkLength img.length k))

/-- R111 `FILE_REQUEST "<p>"`. -/
def shortRequest (path : Bytes) : Option Datagram := encodePacket 0x00#8 0 path

/-- R111 `FILE_NOT_FOUND`. -/
def shortFileNotFound : Option Datagram := encodePacket 0x03#8 0 []

/-- R111 `DONE <n>`. -/
def shortDone (n : Nat) : Option Datagram := encodePacket 0x05#8 n []

/-- R111 `DONE_ACK <n>`. -/
def shortDoneAck (n : Nat) : Option Datagram := encodePacket 0x06#8 n []

end Sys2Proof.Machine
end

