-- ==== Sys2Proof/Tests/Slice0.lean ====
section
/-! SUPPORT. Tests: expected bytes, registers and outputs are the ones spec/95_test_vectors.md writes down (the section is
named at each test), or the spec's own worked values; and a witness for every statement that has hypotheses. -/

namespace Sys2Proof.Tests

open Sys2Proof Sys2Proof.Machine

/-- The next state, where there is one. -/
def nextState (o : Host.Outcome State Fault Refusal) : Option State :=
  match o with
  | .next s => some s
  | .fault _ => none
  | .refused _ => none

/-- The refusal, where there is one. -/
def refusalOf (o : Host.Outcome State Fault Refusal) : Option Refusal :=
  match o with
  | .refused r => some r
  | .next _ => none
  | .fault _ => none

/-- The fault, where there is one. -/
def faultOf (o : Host.Outcome State Fault Refusal) : Option Fault :=
  match o with
  | .fault f => some f
  | .next _ => none
  | .refused _ => none

/-! Small states. -/

/-- The file store of the tests: "f" holds one byte, "e" is empty. -/
def store : Config := { Config.standard with fs := [([0x66#8], [0x61#8]), ([0x65#8], [])] }

def idleState : State := freshState store

def awaiting : State := { idleState with snd := { Sender.reset with state := .awaitReq } }

/-- `S_SEND_WAIT` with the one-byte file open. -/
def sending : State :=
  { idleState with
    snd := { Sender.reset with
      state := .sendWait, windowEnd := 0#33, maxSequence := some 0#33, fileSize := some 1#42,
      file := some [0x61#8], wbuf := [some ⟨1#10, [0x61#8]⟩, none, none, none, none] } }

def doneWaiting : State := { sending with snd := { sending.snd with state := .doneWait, windowStart := 1#32 } }

def missing : State := { idleState with snd := { Sender.reset with state := .missing } }

def requesting : State :=
  { idleState with rcv := { Receiver.reset 5 with state := .reqSent, path := some [0x66#8] } }

/-- `R_RECEIVING` with chunk 0 and chunk 2 of one byte each in the buffer, one datagram into the batch. -/
def receiving : State :=
  { idleState with
    rcv := { Receiver.reset 5 with
      state := .receiving, path := some [0x66#8], bc := 1,
      rb := [some ⟨1#10, [0x61#8]⟩, none, some ⟨1#10, [0x63#8]⟩, none, none] } }

/-! Decoding: words written out from spec/30_encoding.md R104, R112 and spec/95_test_vectors.md 2.2. -/

theorem test_read_file_request :
    decode ⟨.event, 0x20#8, [0x00#8, 0x00#8, 0x00#8, 0x00#8, 0x00#8, 0x00#8, 0x01#8, 0x99#8, 0xfe#8, 0x66#8]⟩ =
      .ok (.fileRequest .sender 0#32 [0x66#8]) := by decide
theorem test_read_data :
    decode ⟨.event, 0x21#8, [0x01#8, 0x00#8, 0x00#8, 0x00#8, 0x07#8, 0x00#8, 0x04#8, 0x3b#8, 0x2d#8, 0x61#8, 0x62#8, 0x63#8, 0x64#8]⟩ =
      .ok (.data .receiver 7#32 [0x61#8, 0x62#8, 0x63#8, 0x64#8]) := by decide
theorem test_read_ack :
    decode ⟨.event, 0x20#8, [0x02#8, 0xff#8, 0xff#8, 0xff#8, 0xff#8, 0x00#8, 0x04#8, 0xff#8, 0xf9#8, 0xff#8, 0xff#8, 0xff#8, 0xff#8]⟩ =
      .ok (.ack .sender 0xFFFFFFFF#32 0xFFFFFFFF#32) := by decide
theorem test_read_file_not_found :
    decode ⟨.event, 0x21#8, [0x03#8, 0x00#8, 0x00#8, 0x00#8, 0x00#8, 0x00#8, 0x00#8, 0xff#8, 0xfc#8]⟩ =
      .ok (.fileNotFound .receiver 0#32) := by decide
theorem test_read_file_not_found_ack :
    decode ⟨.event, 0x20#8, [0x04#8, 0x00#8, 0x00#8, 0x00#8, 0x00#8, 0x00#8, 0x00#8, 0xff#8, 0xfb#8]⟩ =
      .ok (.fileNotFoundAck .sender 0#32) := by decide
theorem test_read_done :
    decode ⟨.event, 0x21#8, [0x05#8, 0x00#8, 0x00#8, 0x00#8, 0x08#8, 0x00#8, 0x00#8, 0xff#8, 0xf2#8]⟩ =
      .ok (.done .receiver 8#32) := by decide
theorem test_read_done_ack :
    decode ⟨.event, 0x20#8, [0x06#8, 0x00#8, 0x00#8, 0x00#8, 0x08#8, 0x00#8, 0x00#8, 0xff#8, 0xf1#8]⟩ =
      .ok (.doneAck .sender 8#32) := by decide
theorem test_read_reset : decode ⟨.event, 0x01#8, []⟩ = .ok .reset := by decide
theorem test_read_serve : decode ⟨.command, 0x10#8, []⟩ = .ok .serve := by decide
theorem test_read_fetch : decode ⟨.command, 0x11#8, [0x66#8]⟩ = .ok (.fetch [0x66#8]) := by decide
/-- 2.3: three bytes are `SHORT`, so the row is RX. -/
theorem test_read_rx_s : decode ⟨.event, 0x20#8, [0x00#8, 0x00#8, 0x00#8]⟩ = .ok (.rxS [0x00#8, 0x00#8, 0x00#8]) := by
  decide
theorem test_read_rx_r : decode ⟨.event, 0x21#8, []⟩ = .ok (.rxR []) := by decide
theorem test_read_timeout_s : decode ⟨.event, 0x30#8, []⟩ = .ok .timeoutS := by decide
theorem test_read_timeout_r : decode ⟨.event, 0x31#8, []⟩ = .ok .timeoutR := by decide
theorem test_read_drain_end : decode ⟨.event, 0x41#8, []⟩ = .ok .drainEnd := by decide
theorem test_read_reserved_event : decode ⟨.event, 0x42#8, []⟩ = .error (.reservedEvent 0x42#8) := by decide
theorem test_read_unknown_command : decode ⟨.command, 0x01#8, []⟩ = .error (.unknownCommand 0x01#8) := by decide

/-- 2.3: one datagram of each class. -/
theorem test_decode_classes :
    decodePacket (List.replicate 8 0#8) = .error .short ∧
    decodePacket (List.replicate 1025 0#8) = .error .long ∧
    decodePacket (List.replicate 9 0#8) = .error .corrupt ∧
    decodePacket [0x07#8, 0x00#8, 0x00#8, 0x00#8, 0x00#8, 0x00#8, 0x00#8, 0xff#8, 0xf8#8] = .error .badOpcode ∧
    decodePacket [0x01#8, 0x00#8, 0x00#8, 0x00#8, 0x00#8, 0x00#8, 0x04#8, 0x3b#8, 0x98#8, 0x61#8, 0x62#8, 0x63#8] =
      .error .badLength ∧
    decodePacket [0x05#8, 0x00#8, 0x00#8, 0x00#8, 0x03#8, 0x00#8, 0x01#8, 0xff#8, 0xf6#8, 0x00#8] =
      .error .badPayload := by decide +kernel

/-- 2.1: checksums of short buffers. -/
theorem test_checksums :
    checksum [] = 0xFFFF#16 ∧ checksum [0x01#8] = 0xFFFE#16 ∧ checksum [0x00#8, 0x01#8] = 0xFEFF#16 ∧
    checksum [0xff#8, 0xff#8, 0x01#8, 0x00#8] = 0xFFFE#16 ∧ checksum (List.replicate 9 0xff#8) = 0xFF00#16 := by
  decide

/-- The table words: a packet row is framed, an event row is its event (log 7). -/
theorem test_table_words :
    decodeTableWord 8 0x00 = some (.fileRequest .sender 0#32 []) ∧ decodeTableWord 8 0x01 = some .reset ∧
    decodeTableWord 8 0x02 = some (.ack .sender 0#32 0#32) ∧ decodeTableWord 8 0x05 = some (.done .receiver 0#32) ∧
    decodeTableWord 8 0x11 = some (.fetch []) ∧ decodeTableWord 8 0x07 = none := by decide

/-- The step after `withFetchWord` runs the table word's instruction. -/
theorem test_fetch_word_runs :
    nextState (step (State.reset.withFetchWord 8 0x10)) = nextState (exec .serve State.reset) := by decide

/-! Smoke: a term each well-formedness check refuses. -/

theorem test_wf_refuses_long_path : (Instr.fileRequest .sender 0#32 (List.replicate 1016 0#8)).wf = false := by decide +kernel
theorem test_wf_refuses_long_chunk : (Instr.data .receiver 0#32 (List.replicate 1016 0#8)).wf = false := by decide +kernel
theorem test_wf_refuses_packet_as_rx_s :
    (Instr.rxS [0x06#8, 0x00#8, 0x00#8, 0x00#8, 0x03#8, 0x00#8, 0x00#8, 0xff#8, 0xf6#8]).wf = false := by decide
theorem test_wf_refuses_packet_as_rx_r :
    (Instr.rxR [0x05#8, 0x00#8, 0x00#8, 0x00#8, 0x03#8, 0x00#8, 0x00#8, 0xff#8, 0xf7#8]).wf = false := by decide

/-! One step each: spec/95_test_vectors.md 2.4, 2.5, 3. -/

/-- P2 row 3: an empty file is answered `DONE 0`. -/
theorem test_file_request_empty :
    (nextState (exec (.fileRequest .sender 0#32 [0x65#8]) awaiting)).map (fun t => (t.snd.state, t.out)) =
      some (.doneWait, [.tx .sender [0x05#8, 0x00#8, 0x00#8, 0x00#8, 0x00#8, 0x00#8, 0x00#8, 0xff#8, 0xfa#8]]) := by
  decide

/-- P3 row 3: a missing file is answered `FILE_NOT_FOUND`. -/
theorem test_file_request_missing :
    (nextState (exec (.fileRequest .sender 0#32 [0x6e#8]) awaiting)).map (fun t => (t.snd.state, t.out)) =
      some (.missing, [.tx .sender [0x03#8, 0x00#8, 0x00#8, 0x00#8, 0x00#8, 0x00#8, 0x00#8, 0xff#8, 0xfc#8]]) := by
  decide

/-- 2.5 row 1: `DATA seq=1` in `R_REQ_SENT`. -/
theorem test_data_first :
    (nextState (exec (.data .receiver 1#32 [0x62#8]) requesting)).map
      (fun t => (t.rcv.state, t.rcv.bc, t.rcv.rb.map Option.isSome, t.out)) =
      some (.receiving, 1, [false, true, false, false, false], []) := by decide

/-- 2.5 row 3: `DATA seq=5` is beyond the buffer. -/
theorem test_data_capacity :
    (nextState (exec (.data .receiver 5#32 [0x62#8]) requesting)).map (fun t => (t.rcv.state, t.rcv.lastDrop, t.rcv.bc)) =
      some (.receiving, .capacity, 1) := by decide

/-- P1 row 8, with the state it is in: `ACK next=3` past `maxSequence = 2` emits `DONE 3`. -/
theorem test_ack_last :
    (nextState (exec (.ack .sender 3#32 3#32)
      { sending with snd := { sending.snd with maxSequence := some 2#33, windowEnd := 2#33 } })).map
      (fun t => (t.snd.state, t.snd.windowStart, t.snd.windowEnd, t.out)) =
      some (.doneWait, 3#32, 2#33,
        [.tx .sender [0x05#8, 0x00#8, 0x00#8, 0x00#8, 0x03#8, 0x00#8, 0x00#8, 0xff#8, 0xf7#8]]) := by decide

/-- 2.4: a duplicate ACK resends the window. -/
theorem test_ack_duplicate :
    (nextState (exec (.ack .sender 9#32 0#32) sending)).map (fun t => (t.snd.state, t.out)) =
      some (.sendWait, [.tx .sender (frame 0x01#8 0#32 [0x61#8])]) := by decide

/-- P3 row 4. -/
theorem test_file_not_found :
    (nextState (exec (.fileNotFound .receiver 0#32) requesting)).map (fun t => (t.rcv.state, t.rcv.status, t.out)) =
      some (.abortedOnMissing, .fileMissing,
        [.tx .receiver [0x04#8, 0x00#8, 0x00#8, 0x00#8, 0x00#8, 0x00#8, 0x00#8, 0xff#8, 0xfb#8], .sinkAbort,
          .endSession .receiver .fileMissing]) := by decide

/-- 2.4: a FILE_NOT_FOUND_ACK out of band. -/
theorem test_file_not_found_ack_defensive :
    (nextState (exec (.fileNotFoundAck .sender 0#32) doneWaiting)).map
      (fun t => (t.snd.windowStart, t.snd.windowEnd, t.snd.status, t.out)) =
      some (0#32, 4#33, .defensive, [.endSession .sender .defensive]) := by decide

/-- 2.5: `DATA 0`, `DATA 2`, `DONE 3` ends INCOMPLETE with the cursor at 1. -/
theorem test_done_incomplete :
    (nextState (exec (.done .receiver 3#32) receiving)).map (fun t => (t.rcv.state, t.rcv.writeCursor, t.out)) =
      some (.flushedOnDone, 1#32,
        [.tx .receiver [0x06#8, 0x00#8, 0x00#8, 0x00#8, 0x03#8, 0x00#8, 0x00#8, 0xff#8, 0xf6#8],
          .sinkWrite [0x61#8], .sinkClose .incomplete, .endSession .receiver .incomplete]) := by decide

/-- P2 row 4: `DONE 0` in `R_REQ_SENT`. -/
theorem test_done_empty :
    (nextState (exec (.done .receiver 0#32) requesting)).map (fun t => (t.rcv.status, t.out)) =
      some (.success,
        [.tx .receiver [0x06#8, 0x00#8, 0x00#8, 0x00#8, 0x00#8, 0x00#8, 0x00#8, 0xff#8, 0xf9#8],
          .sinkClose .success, .endSession .receiver .success]) := by decide

/-- 2.4: a DONE_ACK whose `seq` the sender does not check. -/
theorem test_done_ack :
    (nextState (exec (.doneAck .sender 7#32) doneWaiting)).map (fun t => (t.snd.state, t.snd.status, t.out)) =
      some (.terminated, .success, [.endSession .sender .success]) := by decide

/-- 2.4 last table: RESET from a running session. -/
theorem test_reset : nextState (exec .reset { receiving with snd := sending.snd }) = some idleState := by decide

/-- 2.4: SERVE twice. -/
theorem test_serve_busy :
    (nextState (exec .serve awaiting)).map (fun t => (t.snd.state, t.out)) = some (.awaitReq, [.cmdResp .busy]) := by
  decide

/-- 2.2: FETCH "f" sends its request, then opens the sink. -/
theorem test_fetch :
    (nextState (exec (.fetch [0x66#8]) idleState)).map (fun t => (t.rcv.state, t.out)) =
      some (.reqSent,
        [.tx .receiver [0x00#8, 0x00#8, 0x00#8, 0x00#8, 0x00#8, 0x00#8, 0x01#8, 0x99#8, 0xfe#8, 0x66#8],
          .sinkOpen [0x66#8], .cmdResp .ok]) := by decide

/-- 2.5: a 1016-byte path. -/
theorem test_fetch_bad_path :
    (nextState (exec (.fetch (List.replicate 1016 0#8)) idleState)).map (fun t => (t.rcv.state, t.out)) =
      some (.idle, [.cmdResp .badPath]) := by decide +kernel

/-- 2.4: `raw 00 00 00` at the sender. -/
theorem test_rx_s_short :
    nextState (exec (.rxS [0#8, 0#8, 0#8]) sending) = some { sending with snd := { sending.snd with lastDrop := .short } } := by
  decide

/-- R202's example: the fifth datagram of a batch, corrupt, runs the ACK step. -/
theorem test_rx_r_fifth :
    (nextState (exec (.rxR (List.replicate 9 0#8)) { receiving with rcv := { receiving.rcv with bc := 4 } })).map
      (fun t => (t.rcv.lastDrop, t.rcv.bc, t.rcv.writeCursor, t.out)) =
      some (.corrupt, 0, 1#32, [.sinkWrite [0x61#8],
        .tx .receiver [0x02#8, 0x00#8, 0x00#8, 0x00#8, 0x01#8, 0x00#8, 0x04#8, 0xff#8, 0xf7#8, 0x00#8, 0x00#8, 0x00#8, 0x01#8]]) := by
  decide

/-- 2.4: two timeouts in `S_MISSING`: here the second. -/
theorem test_timeout_s_missing :
    (nextState (exec .timeoutS { missing with snd := { missing.snd with nfCount := 1#1 } })).map
      (fun t => (t.snd.status, t.out)) = some (.missingUnacked, [.endSession .sender .missingUnacked]) := by decide

/-- P6 row 6: the cap of two. -/
theorem test_timeout_s_exhausted :
    (nextState (exec .timeoutS { sending with
      cfg := { store with retryCap := some 2 }, snd := { sending.snd with toCount := 1 } })).map
      (fun t => (t.snd.toCount, t.snd.status)) = some (2, .retryExhausted) := by decide

/-- 2.5: the first timeout resends the request. -/
theorem test_timeout_r_request :
    (nextState (exec .timeoutR requesting)).map (fun t => (t.rcv.reqCount, t.rcv.toCount, t.out)) =
      some (1#1, 1,
        [.tx .receiver [0x00#8, 0x00#8, 0x00#8, 0x00#8, 0x00#8, 0x00#8, 0x01#8, 0x99#8, 0xfe#8, 0x66#8]]) := by decide

/-- R225's example: `writeCursor = 2`, empty buffer. -/
theorem test_timeout_r_ack :
    (nextState (exec .timeoutR { requesting with
      rcv := { requesting.rcv with state := .receiving, writeCursor := 2#32 } })).map (fun t => t.out) =
      some [.tx .receiver [0x02#8, 0x00#8, 0x00#8, 0x00#8, 0x02#8, 0x00#8, 0x04#8, 0xff#8, 0xf5#8, 0x00#8, 0x00#8, 0x00#8, 0x02#8]] := by
  decide

/-- R222's example, one chunk shorter: slots 0 and 2 valid, so the cursor goes to 1 and slot 1 holds chunk 2. -/
theorem test_drain_end :
    (nextState (exec .drainEnd receiving)).map
      (fun t => (t.rcv.writeCursor, t.rcv.bc, t.rcv.rb.map Option.isSome, cmdResponses t)) =
      some (1#32, 0, [false, true, false, false, false], []) := by decide

theorem test_drain_end_not_enabled : refusalOf (exec .drainEnd requesting) = some (.eventNotEnabled 0x41#8) := by decide

/-- R272: a register that holds no value faults; no run reaches this state. -/
theorem test_fault_without_value :
    faultOf (exec .timeoutS { sending with snd := { sending.snd with wbuf := [] } }) = some (.noValue (.wbuf 0)) := by
  decide

/-- R105: an unknown command is answered. -/
theorem test_unknown_command :
    (nextState (step { idleState with inputs := [⟨.command, 0x12#8, []⟩] })).map (fun t => t.out) =
      some [.cmdResp .unknown] := by decide

/-- R110: a packet's spelling. -/
theorem test_spelling :
    spellDatagram [0x05#8, 0x00#8, 0x00#8, 0x00#8, 0x03#8, 0x00#8, 0x00#8, 0xff#8, 0xf7#8] =
      "DONE seq=3 len=0 csum=0xfff7 payload=" := by decide

/-- R110's RESET and TIMEOUT, and the unknown commands of those codes (log 23). -/
theorem test_spelling_by_port :
    spellInput ⟨.event, 0x01#8, []⟩ = "RESET" ∧ spellInput ⟨.event, 0x30#8, []⟩ = "S: TIMEOUT" ∧
    spellInput ⟨.command, 0x01#8, []⟩ = "command 0x01 " ∧ spellInput ⟨.command, 0x30#8, [0xab#8]⟩ = "command 0x30 ab" ∧
    spellInput ⟨.command, 0x11#8, [0x66#8]⟩ = "R: FETCH \"f\"" := by decide

/-! Witnesses: for each statement with hypotheses, values that meet them together, at a boundary of each clause's range. -/

theorem witness_FoldKeepsTheSumInSixteenBits :
    (0xFFFF#32 : Acc).toNat ≤ 0xFFFF ∧ (0xFFFF#32 + 0xFFFF#32 : Acc) = 0x1FFFE#32 := by decide
theorem witness_ChecksumClosedForm :
    wordSum [0xff#8, 0xff#8] ≠ 0 ∧ wordSum [0xff#8, 0xff#8] % 65535 = 0 ∧ wordSum [0#8, 0#8] = 0 := by decide
theorem witness_EncodedPacketVerifies : (encodePacket 0x06#8 (2 ^ 32 - 1) []).isSome = true := by decide
theorem witness_EncodeLaysOutThePacket :
    (6#8 : Byte).toNat ≤ 6 ∧ (List.replicate 1015 0#8 : Bytes).length ≤ chunkSize := by decide +kernel
theorem witness_EncodeRefusesOutsideItsDomain :
    (encodePacket 6#8 (2 ^ 32 - 1) []).isSome = true ∧ (encodePacket 7#8 0 []).isSome = false ∧
    (encodePacket 6#8 (2 ^ 32) []).isSome = false ∧ (encodePacket 0#8 0 (List.replicate 1016 0#8)).isSome = false := by
  decide +kernel
/-- One buffer for each clause, lengths 8, 1025 and 9 among them. -/
theorem witness_DecodeReportsTheFirstFailingCheck :
    (List.replicate 8 0#8 : Bytes).length < 9 ∧ 1024 < (List.replicate 1025 0#8 : Bytes).length ∧
    checksum (List.replicate 9 0#8) ≠ 0#16 ∧
    checksum [0x07#8, 0x00#8, 0x00#8, 0x00#8, 0x00#8, 0x00#8, 0x00#8, 0xff#8, 0xf8#8] = 0#16 ∧
    checksum [0x05#8, 0x00#8, 0x00#8, 0x00#8, 0x03#8, 0x00#8, 0x01#8, 0xff#8, 0xf6#8, 0x00#8] = 0#16 ∧
    checksum [0x02#8, 0x00#8, 0x00#8, 0x00#8, 0x03#8, 0x00#8, 0x04#8, 0xff#8, 0xf3#8, 0x00#8, 0x00#8, 0x00#8, 0x03#8] = 0#16 ∧
    checksum [0x02#8, 0x00#8, 0x00#8, 0x00#8, 0x00#8, 0x00#8, 0x00#8, 0xff#8, 0xfd#8] = 0#16 ∧
    checksum [0x01#8, 0x00#8, 0x00#8, 0x00#8, 0x00#8, 0x00#8, 0x04#8, 0x3b#8, 0x98#8, 0x61#8, 0x62#8, 0x63#8] = 0#16 := by
  decide +kernel
theorem witness_DecodedPacketGuarantees :
    decodePacket [0x05#8, 0x00#8, 0x00#8, 0x00#8, 0x03#8, 0x00#8, 0x00#8, 0xff#8, 0xf7#8] =
      .ok ⟨0x05#8, 3#32, 0#16, 0xfff7#16, []⟩ := by decide
theorem witness_DecodeReturnsTheEncodedPacket :
    payloadAllowed 0x02#8 4 = true ∧ payloadAllowed 0x06#8 0 = true ∧ payloadAllowed 0x01#8 1015 = true := by decide
theorem witness_SingleBitErrorsAreDetected :
    encodePacket 0x03#8 0 [] = some [0x03#8, 0x00#8, 0x00#8, 0x00#8, 0x00#8, 0x00#8, 0x00#8, 0xff#8, 0xfc#8] ∧
    decodePacket (flipBit [0x03#8, 0x00#8, 0x00#8, 0x00#8, 0x00#8, 0x00#8, 0x00#8, 0xff#8, 0xfc#8] 8 7) = .error .corrupt := by
  decide
theorem witness_EqualWordSumsGoUndetected :
    verify [0xff#8, 0xff#8] = true ∧ 0 < wordSum [0xfe#8, 0xff#8, 0x01#8] ∧
    wordSum [0xfe#8, 0xff#8, 0x01#8] % 65535 = wordSum [0xff#8, 0xff#8] % 65535 := by decide

theorem witness_DecodeReadsTheEncodedInstruction :
    (Instr.data .sender 0xFFFFFFFF#32 (List.replicate 1015 0#8)).wf = true ∧ (Instr.rxS [0#8]).wf = true ∧
    (Instr.fetch (List.replicate 1016 0#8)).wf = true := by decide +kernel
theorem witness_DecodeGivesWellFormedInstructions : decode ⟨.event, 0x21#8, [0#8]⟩ = .ok (.rxR [0#8]) := by decide
theorem witness_StepRunsTheDecodedInstruction :
    ({ sending with inputs := [⟨.event, 0x30#8, []⟩] } : State).inputs = ⟨.event, 0x30#8, []⟩ :: [] ∧
    decode ⟨.event, 0x30#8, []⟩ = .ok .timeoutS := by decide
theorem witness_StepWaitsWithoutInput : sending.inputs = [] := by decide
theorem witness_UnknownCommandsAreAnswered :
    (0x0f#8 : Byte) ≠ 0x10#8 ∧ (0x12#8 : Byte) ≠ 0x11#8 ∧
    ({ sending with inputs := [⟨.command, 0x12#8, [0#8]⟩] } : State).inputs = ⟨.command, 0x12#8, [0#8]⟩ :: [] := by decide
theorem witness_ReservedEventCodesAreRefused :
    (∀ c ∈ [0x00#8, 0x02#8, 0x40#8, 0x42#8, 0xff#8],
      c ∉ [0x01#8, 0x10#8, 0x11#8, 0x20#8, 0x21#8, 0x30#8, 0x31#8, 0x41#8]) ∧
    ({ sending with inputs := [⟨.event, 0x42#8, []⟩] } : State).inputs = ⟨.event, 0x42#8, []⟩ :: [] := by decide
theorem witness_EventsNotEnabledHaveNoStep :
    awaiting.snd.state ∉ [SState.sendWait, .doneWait, .missing] ∧ idleState.rcv.state ∉ [RState.reqSent, .receiving] ∧
    ¬ (requesting.rcv.state = .receiving ∧ 1 ≤ requesting.rcv.bc) ∧
    ({ receiving with rcv := { receiving.rcv with bc := 0 } } : State).rcv.bc = 0 := by decide

theorem witness_ServeStartsASessionOrIsBusy :
    idleState.snd.state = .idle ∧ senderActive awaiting ∧ senderActive sending ∧ senderActive doneWaiting ∧
    senderActive missing := by unfold senderActive; decide
theorem witness_FetchStartsASessionOrIsRefused :
    receiverActive requesting ∧ receiverActive receiving ∧ ¬ receiverActive idleState ∧
    1015 < (List.replicate 1016 0#8 : Bytes).length ∧ (List.replicate 1015 0#8 : Bytes).length ≤ 1015 := by
  unfold receiverActive; decide +kernel
theorem witness_SenderDropsWhatDoesNotDecode :
    decodePacket (List.replicate 8 0#8) = .error .short ∧
    decodePacket [0x05#8, 0x00#8, 0x00#8, 0x00#8, 0x03#8, 0x00#8, 0x00#8, 0xff#8, 0xf7#8] =
      .ok ⟨0x05#8, 3#32, 0#16, 0xfff7#16, []⟩ := by decide
theorem witness_ReceiverDropsAndCountsWhatDoesNotDecode :
    decodePacket (List.replicate 9 0#8) = .error .corrupt ∧ receiving.rcv.bc + 1 < receiving.cfg.rxBatch := by decide
theorem witness_SenderIgnoresUnhandledPackets :
    sending.snd.state ≠ .awaitReq ∧ awaiting.snd.state ≠ .sendWait ∧ awaiting.snd.state ≠ .doneWait ∧
    awaiting.snd.state ≠ .missing ∧ missing.snd.state ≠ .sendWait ∧ missing.snd.state ≠ .doneWait := by decide

/-- A store with a file of `n` bytes. -/
def sized (n : Nat) : State := { awaiting with cfg := { store with fs := [([0x66#8], List.replicate n 0#8)] } }
theorem sized_lookup (n : Nat) : (sized n).cfg.fs.lookup [0x66#8] = some (List.replicate n 0#8) := by
  simp [sized]

/-- No file, a file one byte above `FILE_SIZE_MAX`, a file of exactly that size. -/
theorem witness_FileRequestOpensOrReportsMissing :
    awaiting.snd.state = .awaitReq ∧ awaiting.cfg.fs.lookup [0x6e#8] = none ∧
    (sized (fileSizeMax + 1)).cfg.fs.lookup [0x66#8] = some (List.replicate (fileSizeMax + 1) 0#8) ∧
    fileSizeMax < (List.replicate (fileSizeMax + 1) 0#8 : Bytes).length ∧
    (sized fileSizeMax).cfg.fs.lookup [0x66#8] = some (List.replicate fileSizeMax 0#8) ∧
    (List.replicate fileSizeMax 0#8 : Bytes).length ≤ fileSizeMax := by
  refine ⟨by decide, by decide, sized_lookup _, ?_, sized_lookup _, ?_⟩
  · rw [List.length_replicate]
    exact Nat.lt_succ_self _
  · rw [List.length_replicate]
theorem witness_EmptyFileIsDoneAtOnce :
    awaiting.snd.state = .awaitReq ∧ awaiting.cfg.fs.lookup [0x65#8] = some [] := by decide

theorem sending_opened : FileOpened sending.snd [0x61#8] := ⟨by decide, by decide, by decide, by decide⟩
theorem sending_bounded : WindowBounded sending.snd [0x61#8] := by unfold WindowBounded; decide
theorem sending_buffered : WindowBuffered sending.snd [0x61#8] := by unfold WindowBuffered; decide

/-- The window starts at 0: next 1 advances, next 0 resends. -/
theorem witness_AckAdvancesOrResendsTheWindow :
    sending.snd.state = .sendWait ∧ FileOpened sending.snd [0x61#8] ∧ WindowBounded sending.snd [0x61#8] ∧
    WindowBuffered sending.snd [0x61#8] ∧ sending.snd.windowStart.toNat < (1#32 : SeqNo).toNat ∧
    (0#32 : SeqNo).toNat ≤ sending.snd.windowStart.toNat :=
  ⟨by decide, sending_opened, sending_bounded, sending_buffered, by decide, by decide⟩
theorem witness_SenderTimeoutResendsTheWindow :
    sending.snd.state = .sendWait ∧ WindowBuffered sending.snd [0x61#8] ∧ sending.cfg.retryCap = none ∧
    (∃ n, ({ store with retryCap := some 1 } : Config).retryCap = some n ∧ n ≤ sending.snd.toCount + 1) :=
  ⟨by decide, sending_buffered, by decide, 1, by decide, by decide⟩
theorem witness_SenderTimeoutAfterDoneEndsTheSession : doneWaiting.snd.state = .doneWait := by decide
theorem witness_SenderTimeoutInMissing :
    missing.snd.state = .missing ∧ missing.snd.nfCount = 0#1 ∧
    ({ missing.snd with nfCount := 1#1 } : Sender).state = .missing := by decide
theorem witness_DoneAckEndsTheSenderSession : doneWaiting.snd.state = .doneWait ∧ sending.snd.state = .sendWait := by decide
theorem witness_FileNotFoundAckEndsTheSenderSession :
    missing.snd.state = .missing ∧ sending.snd.state = .sendWait ∧ doneWaiting.snd.state = .doneWait := by decide

theorem witness_ReceiverIgnoresUnhandledPackets : ¬ receiverActive idleState := by unfold receiverActive; decide
/-- The cursor is 0 and the buffer five slots deep: 0 fills or is seen, 4 fills, 5 does not. -/
theorem witness_DataFillsItsSlotOnce :
    receiverActive requesting ∧ receiverActive receiving ∧ receiving.rcv.rb.length = receiving.cfg.rbDepth ∧
    seen receiving (0#32 : SeqNo).toNat = true ∧ seen receiving (4#32 : SeqNo).toNat = false ∧
    (4#32 : SeqNo).toNat < receiving.rcv.writeCursor.toNat + receiving.cfg.rbDepth ∧
    receiving.rcv.writeCursor.toNat + receiving.cfg.rbDepth ≤ (5#32 : SeqNo).toNat := by
  unfold receiverActive; decide
theorem witness_DoneFlushesAndClosesTheSink : receiverActive requesting ∧ receiverActive receiving := by
  unfold receiverActive; decide
theorem witness_FileNotFoundAbortsTheSink : receiverActive requesting ∧ receiverActive receiving := by
  unfold receiverActive; decide
theorem witness_DrainEndFlushesAndAcknowledges : receiving.rcv.state = .receiving ∧ 1 ≤ receiving.rcv.bc := by decide
theorem witness_ReceiverTimeoutResendsTheRequestOnce :
    requesting.rcv.state = .reqSent ∧ requesting.rcv.path = some [0x66#8] ∧ ([0x66#8] : Bytes).length ≤ 1015 ∧
    requesting.cfg.retryCap = none ∧ requesting.rcv.reqCount = 0#1 ∧
    ({ requesting.rcv with reqCount := 1#1 } : Receiver).state = .reqSent ∧
    ({ store with retryCap := some 1 } : Config).retryCap = some (requesting.rcv.toCount + 1) := by decide
theorem witness_ReceiverTimeoutAcknowledgesAgain :
    receiving.rcv.state = .receiving ∧ receiving.cfg.retryCap = none ∧
    ({ store with retryCap := some 1 } : Config).retryCap = some (receiving.rcv.toCount + 1) := by decide
theorem witness_EveryAckCarriesTheCursor :
    (nextState (exec .drainEnd receiving)).map (fun t => t.out) =
      some (receiving.out ++ [.sinkWrite [0x61#8], .tx .receiver (ackPacket 1#32)]) ∧
    (decodePacket (ackPacket 1#32)).toOption.map (fun p => p.op) = some 0x02#8 := by decide

theorem witness_EnginesShareNoState :
    engineOf .timeoutS = some .sender ∧ ({ sending with rcv := receiving.rcv } : State).cfg = sending.cfg ∧
    ({ sending with rcv := receiving.rcv } : State).snd = sending.snd ∧
    (nextState (exec .timeoutS sending)).isSome = true ∧
    engineOf .drainEnd = some .receiver ∧ ({ receiving with snd := sending.snd } : State).rcv = receiving.rcv ∧
    (nextState (exec .drainEnd receiving)).isSome = true := by decide
theorem witness_OutputsAreOnlyAppended : (nextState (exec .timeoutR requesting)).isSome = true := by decide
theorem witness_CommandsAreAnsweredOnce :
    (nextState (exec .serve awaiting)).isSome = true ∧ (nextState (exec (.fetch []) idleState)).isSome = true ∧
    (nextState (exec .reset awaiting)).isSome = true := by decide
theorem witness_SessionsEndOnceWithTheirStatus :
    senderActive doneWaiting ∧ receiverActive receiving ∧
    (nextState (exec .timeoutS doneWaiting)).map (fun t => t.snd.state) = some .terminated ∧
    (nextState (exec (.done .receiver 1#32) receiving)).map (fun t => t.rcv.state) = some .flushedOnDone := by
  unfold senderActive receiverActive; decide

theorem no_slots (n : Nat) : SlotsLegal (List.replicate n none) := by
  intro k slot h
  simp [List.getElem?_replicate] at h
theorem path_legal : PathLegal (some [0x66#8]) := fun p h => by cases h; decide
theorem idleState_inv : BlockInv idleState := by
  refine ⟨by decide, ⟨by decide, no_slots 5, trivial, ⟨by decide, by decide, by decide, by decide, by decide⟩,
    by decide, by decide⟩, by decide, no_slots 5, nofun, by decide, trivial, ?_, by decide, by decide, by decide, by decide⟩
  rintro (_ | _ | _ | _ | _ | k) slot h <;> simp [idleState, freshState, Receiver.reset, store, Config.standard] at h
theorem sending_slots : SlotsLegal sending.snd.wbuf := by
  unfold SlotsLegal SlotLegal
  rintro (_ | _ | _ | _ | _ | k) slot h <;> simp [sending] at h
  subst h
  decide
theorem sending_inv : BlockInv sending :=
  ⟨by decide, ⟨by decide, sending_slots, trivial, by decide, [0x61#8], sending_opened, sending_bounded, sending_buffered,
    by decide⟩, idleState_inv.2.2⟩
theorem receiving_slots : ∀ (k : Nat) (slot : Slot), receiving.rcv.rb[k]? = some (some slot) →
    SlotLegal slot ∧ receiving.rcv.writeCursor.toNat + k < 2 ^ 32 - 1 := by
  unfold SlotLegal
  rintro (_ | _ | _ | _ | _ | k) slot h <;> simp [receiving] at h <;> subst h <;> decide
theorem receiving_inv : BlockInv receiving :=
  ⟨by decide, idleState_inv.2.1, by decide, fun k slot h => (receiving_slots k slot h).1, path_legal, by decide, trivial,
    fun k slot h => (receiving_slots k slot h).2, by decide, by decide⟩

theorem witness_EveryStepKeepsTheInvariant :
    BlockInv { sending with inputs := [⟨.event, 0x30#8, []⟩] } ∧
    (nextState (step { sending with inputs := [⟨.event, 0x30#8, []⟩] })).isSome = true := ⟨sending_inv, by decide⟩
/-- One refused input for each of the three reasons, and an enabled one. -/
theorem witness_NoRuleFaults :
    BlockInv { sending with inputs := [⟨.event, 0x31#8, []⟩] } ∧
    refusalOf (step { sending with inputs := [⟨.event, 0x31#8, []⟩] }) = some (.eventNotEnabled 0x31#8) ∧
    refusalOf (step { sending with inputs := [⟨.event, 0x42#8, []⟩] }) = some (.reservedEventCode 0x42#8) ∧
    refusalOf (step { sending with inputs := [⟨.command, 0x10#8, [0#8]⟩] }) = some (.operandNotAllowed 0x10#8) ∧
    enabled .timeoutS { sending with inputs := [⟨.event, 0x30#8, []⟩] } = true :=
  ⟨sending_inv, by decide, by decide, by decide, by decide⟩
theorem witness_StatusViewIsLegal : BlockInv sending ∧ statusView .sMaxSequence sending = some (.num 0) ∧
    statusView .sFile sending = some (.bytes [0x61#8]) ∧ statusView (.wbufData 0) sending = some (.bytes [0x61#8]) :=
  ⟨sending_inv, by decide, by decide, by decide⟩
theorem witness_StatusViewShowsEveryRegister :
    BlockInv sending ∧ BlockInv { sending with out := [.sinkAbort] } ∧
    ∀ f : ViewField, statusView f sending = statusView f { sending with out := [.sinkAbort] } :=
  ⟨sending_inv, sending_inv, fun f => by cases f <;> rfl⟩
theorem witness_WindowHoldsOneToFiveChunks : BlockInv sending ∧ sending.snd.state = .sendWait := ⟨sending_inv, by decide⟩
theorem witness_WindowStartNeverDecreases :
    BlockInv sending ∧ (nextState (exec (.ack .sender 1#32 1#32) sending)).isSome = true ∧
    Instr.ack .sender 1#32 1#32 ≠ .reset ∧ senderActive sending := ⟨sending_inv, by decide, by decide, .inr (.inl rfl)⟩
theorem witness_WriteCursorNeverDecreases :
    BlockInv receiving ∧ (nextState (exec .drainEnd receiving)).isSome = true ∧ Instr.drainEnd ≠ .reset ∧
    receiverActive receiving := ⟨receiving_inv, by decide, by decide, .inr rfl⟩
theorem witness_EmittedDataIsTheFile :
    BlockInv sending ∧
    (nextState (exec .timeoutS sending)).map (fun t => t.out) =
      some (sending.out ++ [.tx .sender (frame 0x01#8 0#32 [0x61#8])]) ∧
    (decodePacket (frame 0x01#8 0#32 [0x61#8])).toOption.map (fun p => p.op) = some 0x01#8 :=
  ⟨sending_inv, by decide, by decide⟩

/-- `receiving` with the sink open, its slots holding chunks 0 and 2 of a file of three chunks. -/
def bigFile : Bytes := List.replicate 2030 0#8 ++ [0x63#8]
def reassembling : State :=
  { receiving with
    rcv := { receiving.rcv with
      rb := [some (Slot.ofBytes (fileChunk bigFile 0)), none, some (Slot.ofBytes (fileChunk bigFile 2)), none, none] }
    out := [.sinkOpen [0x66#8]] }
theorem reassembling_slots : ∀ (k : Nat) (slot : Slot), reassembling.rcv.rb[k]? = some (some slot) →
    SlotLegal slot ∧ reassembling.rcv.writeCursor.toNat + k < 2 ^ 32 - 1 := by
  unfold SlotLegal
  rintro (_ | _ | _ | _ | _ | k) slot h <;> simp [reassembling] at h <;> subst h <;> decide +kernel
theorem reassembling_inv : BlockInv reassembling :=
  ⟨by decide, idleState_inv.2.1, by decide, fun k slot h => (reassembling_slots k slot h).1, path_legal, by decide, trivial,
    fun k slot h => (reassembling_slots k slot h).2, by decide, by decide⟩
theorem reassembling_holds : Reassembled [0x66#8] bigFile reassembling := by
  refine ⟨by decide +kernel, ?_⟩
  rintro (_ | _ | _ | _ | _ | k) slot h <;> simp [reassembling] at h <;> subst h <;> exact ⟨by rfl, by decide +kernel⟩

/-- The same session once chunk 1 has come too: every chunk is in the seen-set. -/
def reassembledAll : State :=
  { reassembling with
    rcv := { reassembling.rcv with
      rb := [some (Slot.ofBytes (fileChunk bigFile 0)), some (Slot.ofBytes (fileChunk bigFile 1)),
        some (Slot.ofBytes (fileChunk bigFile 2)), none, none] } }

/-- The last chunk, a stored one, a packet no receiver state handles, and the DONE that carries the chunk count. -/
theorem witness_ReassemblyKeepsTheFile :
    BlockInv reassembling ∧ receiverActive reassembling ∧ Reassembled [0x66#8] bigFile reassembling ∧
    ((2#32 : SeqNo).toNat : Int) ≤ maxSequenceOf bigFile.length ∧
    ((3#32 : SeqNo).toNat : Int) = maxSequenceOf bigFile.length + 1 ∧ bigFile.length ≤ fileSizeMax ∧
    (2#32 : SeqNo).toNat < reassembling.rcv.writeCursor.toNat + reassembling.cfg.rbDepth ∧
    storesNoChunk (.ack .receiver 0#32 0#32) = true ∧
    (nextState (exec (.ack .receiver 0#32 0#32) reassembling)).isSome = true ∧
    (nextState (exec (.data .receiver 2#32 (fileChunk bigFile 2)) reassembling)).isSome = true ∧
    (nextState (exec (.done .receiver 3#32) reassembledAll)).map (fun u => u.rcv.status) = some .success :=
  ⟨reassembling_inv, .inr rfl, reassembling_holds, by decide +kernel, by decide +kernel, by decide +kernel, by decide,
    by decide, by decide +kernel, by decide +kernel, by decide +kernel⟩
theorem reassembledAll_seen : ∀ n : Nat, (n : Int) ≤ 2 → seen reassembledAll n = true := by
  intro n hn
  obtain rfl | rfl | rfl : n = 0 ∨ n = 1 ∨ n = 2 := by omega
  all_goals decide

/-- After FETCH "f", then chunk 0 of the one-byte file. -/
def oneChunk : State :=
  { requesting with
    rcv := { requesting.rcv with state := .receiving, bc := 1, rb := [some ⟨1#10, [0x61#8]⟩, none, none, none, none] }
    out := [.tx .receiver (frame 0x00#8 0#32 [0x66#8]), .sinkOpen [0x66#8], .cmdResp .ok] }
theorem witness_ChunksInAnyOrderGiveTheFile :
    BlockInv idleState ∧ ¬ receiverActive idleState ∧ ([0x66#8] : Bytes).length ≤ chunkSize ∧
    exec (.fetch [0x66#8]) idleState =
      .next { requesting with out := [.tx .receiver (frame 0x00#8 0#32 [0x66#8]), .sinkOpen [0x66#8], .cmdResp .ok] } ∧
    ([0x61#8] : Bytes).length ≤ fileSizeMax ∧
    Delivery [0x61#8]
      { requesting with out := [.tx .receiver (frame 0x00#8 0#32 [0x66#8]), .sinkOpen [0x66#8], .cmdResp .ok] } [0] oneChunk ∧
    (∀ k : Nat, (k : Int) ≤ maxSequenceOf ([0x61#8] : Bytes).length → k ∈ [0]) ∧
    ((1#32 : SeqNo).toNat : Int) = maxSequenceOf ([0x61#8] : Bytes).length + 1 := by
  refine ⟨idleState_inv, by unfold receiverActive; decide, by decide, by rfl, by decide,
    .chunk [] _ _ 0#32 .start (by decide) (by decide) (by rfl), ?_, by decide⟩
  intro k hk
  have h0 : maxSequenceOf ([0x61#8] : Bytes).length = 0 := by decide
  simp only [List.mem_singleton]
  omega

/-- R28, R33, R36, R41: the slots and the path in the view; an empty slot shows no length. -/
theorem test_view_slots :
    statusView (.rbLen 0) receiving = some (.num 1) ∧ statusView (.rbData 2) receiving = some (.bytes [0x63#8]) ∧
    statusView (.rbLen 1) receiving = none ∧ statusView .rPath receiving = some (.bytes [0x66#8]) ∧
    statusView (.wbufLen 0) sending = some (.num 1) ∧ statusView (.wbufLen 5) sending = none := by decide

/-! A launched transfer of the one-byte file, and of the empty one. -/

def launchedA : State := { awaiting with out := [.cmdResp .ok] }
def launchedB (path : Bytes) : State :=
  { idleState with
    rcv := { Receiver.reset 5 with state := .reqSent, path := some path }
    out := [.tx .receiver (frame 0x00#8 0#32 path), .sinkOpen path, .cmdResp .ok] }
def launchedLink (path : Bytes) : Link := ⟨launchedA, launchedB path⟩

theorem launched_f : Link.launched store store [0x66#8] (launchedLink [0x66#8]) := ⟨by rfl, by rfl⟩
theorem launched_e : Link.launched store store [0x65#8] (launchedLink [0x65#8]) := ⟨by rfl, by rfl⟩

/-- The link after an event, where it has a next state. -/
def after (l : Link) (ev : LinkEvent) : Link :=
  match l.step ev with
  | .next n => n
  | .fault _ => l
  | .refused _ => l

/-- The event has a next state. -/
def goes (l : Link) (ev : LinkEvent) : Bool :=
  match l.step ev with
  | .next _ => true
  | .fault _ => false
  | .refused _ => false

theorem run_after {l m : Link} {ev : LinkEvent} (h : Link.Run .detectable l m) (ho : m.offered .detectable ev)
    (hg : goes m ev = true) : Link.Run .detectable l (after m ev) := by
  refine .next m _ ev h ho ?_
  unfold goes at hg
  unfold after
  split at hg <;> simp_all

/-- The request arrives: DATA 0 is on its way. -/
def requested : Link := after (launchedLink [0x66#8]) (.toSender (frame 0x00#8 0#32 [0x66#8]))
/-- DATA 0 arrives, the drain ends: `ACK 1` is on its way. -/
def acked : Link := after (after requested (.toReceiver (frame 0x01#8 0#32 [0x61#8]))) .drainEnd

theorem acked_run : Link.Run .detectable (launchedLink [0x66#8]) acked :=
  run_after (run_after (run_after .start (.inl (by decide)) (by decide)) (.inl (by decide)) (by decide))
    (show enabled .drainEnd _ = true by decide) (by decide)

theorem witness_ConformingPeersStayInStep :
    store.wf = true ∧ Link.launched store store [0x66#8] (launchedLink [0x66#8]) ∧
    Link.Run .detectable (launchedLink [0x66#8]) acked ∧
    acked.offered .detectable (.toSender (ackPacket 1#32)) ∧ acked.a.snd.state = .sendWait ∧
    acked.a.snd.maxSequence = some 0#33 ∧
    (decodePacket (ackPacket 1#32)).toOption.map (fun p => p.op) = some 0x02#8 ∧
    acked.offered .detectable (.toReceiver (frame 0x01#8 0#32 [0x61#8])) ∧ receiverActive acked.b ∧
    (decodePacket (frame 0x01#8 0#32 [0x61#8])).toOption.map (fun p => p.op) = some 0x01#8 :=
  ⟨by decide, launched_f, acked_run, .inl (by decide), by decide, by decide, by decide, .inl (by decide), .inr (by decide),
    by decide⟩

/-- The empty file: the request, then `DONE 0`. -/
def emptyDone : Link :=
  after (after (launchedLink [0x65#8]) (.toSender (frame 0x00#8 0#32 [0x65#8]))) (.toReceiver (frame 0x05#8 0#32 []))

theorem witness_SuccessDeliversTheFile :
    store.wf = true ∧ Link.launched store store [0x65#8] (launchedLink [0x65#8]) ∧
    Link.Run .detectable (launchedLink [0x65#8]) emptyDone ∧ emptyDone.b.rcv.status = .success ∧
    sinkView emptyDone.b = .closed [0x65#8] [] .success :=
  ⟨by decide, launched_e, run_after (run_after .start (.inl (by decide)) (by decide)) (.inl (by decide)) (by decide),
    by decide, by decide⟩


/-! A fair infinite run of the empty file, under `RETRY_CAP` `cap`: the request, `DONE 0` and `DONE_ACK 0` arrive, then a
corrupted copy of the request again and again. -/

def capped (cap : Option Nat) : Config := { store with retryCap := cap }
def fairStart (cap : Option Nat) : Link :=
  ⟨{ launchedA with cfg := capped cap }, { launchedB [0x65#8] with cfg := capped cap }⟩
def fairEvent : Nat → LinkEvent
  | 0 => .toSender (frame 0x00#8 0#32 [0x65#8])
  | 1 => .toReceiver (frame 0x05#8 0#32 [])
  | 2 => .toSender (frame 0x06#8 0#32 [])
  | _ + 3 => .toSender []
def fairLink (cap : Option Nat) : Nat → Link
  | 0 => fairStart cap
  | n + 1 => after (fairLink cap n) (fairEvent n)

/-- `RETRY_CAP` none and the least cap: the run's first events, and the state it then stays in. -/
theorem fair_prefix : ∀ cap ∈ [none, some 1],
    (∀ n ∈ [0, 1, 2, 3], goes (fairLink cap n) (fairEvent n) = true) ∧
    after (fairLink cap 4) (.toSender []) = fairLink cap 4 ∧ goes (fairLink cap 4) (.toSender []) = true ∧
    frame 0x00#8 0#32 [0x65#8] ∈ txPort .receiver (fairLink cap 0).b ∧
    frame 0x05#8 0#32 [] ∈ txPort .sender (fairLink cap 1).a ∧
    frame 0x06#8 0#32 [] ∈ txPort .receiver (fairLink cap 2).b ∧
    frame 0x00#8 0#32 [0x65#8] ∈ txPort .receiver (fairLink cap 3).b ∧
    frame 0x00#8 0#32 [0x65#8] ∈ txPort .receiver (fairLink cap 4).b ∧
    [] ∉ txPort .receiver (fairLink cap 4).b ∧
    (fairLink cap 4).ended = true ∧ enabled .timeoutS (fairLink cap 4).a = false ∧
    enabled .timeoutR (fairLink cap 4).b = false ∧ enabled .drainEnd (fairLink cap 4).b = false ∧
    (∀ n ∈ [0, 1, 2, 3, 4], ∀ d ∈ txPort .sender (fairLink cap n).a, d = frame 0x05#8 0#32 []) := by decide

theorem fair_rest {cap : Option Nat} (h : cap ∈ [none, some 1]) (n : Nat) : fairLink cap (n + 4) = fairLink cap 4 := by
  induction n with
  | zero => rfl
  | succ n ih =>
    show after (fairLink cap (n + 4)) (.toSender []) = _
    rw [ih]
    exact (fair_prefix cap h).2.1

theorem fair_after {cap : Option Nat} (h : cap ∈ [none, some 1]) {m : Nat} (hm : 4 ≤ m) : fairLink cap m = fairLink cap 4 := by
  obtain ⟨k, rfl⟩ := Nat.exists_eq_add_of_le' hm
  exact fair_rest h k

theorem fairEvent_after {m : Nat} (hm : 3 ≤ m) : fairEvent m = .toSender [] := by
  obtain ⟨k, rfl⟩ := Nat.exists_eq_add_of_le' hm
  rfl

theorem goes_after {l : Link} {ev : LinkEvent} (hg : goes l ev = true) : l.step ev = .next (after l ev) := by
  unfold goes at hg
  unfold after
  split at hg <;> simp_all

theorem fair_infiniteRun {cap : Option Nat} (h : cap ∈ [none, some 1]) :
    infiniteRun .detectable (fairLink cap) fairEvent := by
  obtain ⟨hg, -, h4, r0, d1, a2, r3, r4, -⟩ := fair_prefix cap h
  have junk : ∀ n, frame 0x00#8 0#32 [0x65#8] ∈ txPort .receiver (fairLink cap n).b →
      (fairLink cap n).offered .detectable (.toSender []) := fun n hn => .inr ⟨_, hn, by decide, by decide⟩
  rintro (_ | _ | _ | _ | n)
  · exact ⟨.inl r0, goes_after (hg 0 (by decide))⟩
  · exact ⟨.inl d1, goes_after (hg 1 (by decide))⟩
  · exact ⟨.inl a2, goes_after (hg 2 (by decide))⟩
  · exact ⟨junk 3 r3, goes_after (hg 3 (by decide))⟩
  · refine ⟨junk _ (by rw [fair_rest h n]; exact r4), goes_after ?_⟩
    rw [fair_rest h n]
    exact h4

theorem fair_channel {cap : Option Nat} (h : cap ∈ [none, some 1]) :
    channelFair (fairLink cap) fairEvent ∧ weaklyFair .detectable (fairLink cap) fairEvent ∧
    duplicatesFinitely (fairLink cap) fairEvent := by
  obtain ⟨-, -, -, -, -, -, -, -, h0, -, hs, hr, hd, -⟩ := fair_prefix cap h
  refine ⟨⟨fun d hi => ?_, fun d hi => ?_⟩, fun e he ⟨n, hn⟩ => ?_, fun d n hm _ => ⟨3, fun m hm3 => ?_⟩,
    fun d n hm hc => ⟨n + 4, fun m hm4 he => ?_⟩⟩
  · obtain ⟨m, h4, hlt⟩ := hi 4
    rw [fair_after h h4, fair_after h (Nat.le_succ_of_le h4)] at hlt
    exact absurd hlt (Nat.lt_irrefl _)
  · obtain ⟨m, h4, hlt⟩ := hi 4
    rw [fair_after h h4, fair_after h (Nat.le_succ_of_le h4)] at hlt
    exact absurd hlt (Nat.lt_irrefl _)
  · have := hn (n + 4) (by omega)
    rw [fair_rest h n] at this
    rcases he with rfl | rfl | rfl <;> simp_all [Link.offered]
  · rw [fairEvent_after hm3]
    nofun
  · rw [fairEvent_after (by omega)] at he
    injection he with he
    subst he
    have h5 := hc m (by omega)
    rw [fair_after h (by omega), List.count_eq_zero_of_not_mem h0] at h5
    exact absurd hm (List.count_eq_zero.mp h5.symm)

theorem fair_emits_done {cap : Option Nat} (h : cap ∈ [none, some 1]) (n : Nat) :
    ∀ d ∈ txPort .sender (fairLink cap n).a, d = frame 0x05#8 0#32 [] := by
  have hp := (fair_prefix cap h).2.2.2.2.2.2.2.2.2.2.2.2.2
  by_cases hn : 4 ≤ n
  · rw [fair_after h hn]
    exact hp 4 (by decide)
  · exact hp n (by simp only [List.mem_cons, List.not_mem_nil, or_false]; omega)

theorem witness_FairTransfersEnd : ∀ cap ∈ [none, some 1],
    (capped cap).wf = true ∧ ([0x65#8] : Bytes).length ≤ chunkSize ∧
    Link.launched (capped cap) (capped cap) [0x65#8] (fairLink cap 0) ∧
    infiniteRun .detectable (fairLink cap) fairEvent ∧ channelFair (fairLink cap) fairEvent ∧
    weaklyFair .detectable (fairLink cap) fairEvent ∧ duplicatesFinitely (fairLink cap) fairEvent ∧
    decisivePacketsArrive (fairLink cap) fairEvent ∧ (fairLink cap 1).a.snd.state ≠ .awaitReq ∧
    (fairLink cap 4).ended = true := by
  intro cap h
  obtain ⟨hc, hw, hd⟩ := fair_channel h
  refine ⟨?_, by decide, ?_, fair_infiniteRun h, hc, hw, hd, ⟨⟨0, _, _, rfl, rfl, by decide⟩,
    fun _ => ⟨1, _, _, rfl, rfl, by decide⟩, ?_⟩, ?_, (fair_prefix cap h).2.2.2.2.2.2.2.2.2.1⟩
  · fin_cases h <;> decide
  · fin_cases h <;> exact ⟨rfl, rfl⟩
  · rintro ⟨n, d, p, hm, hp, h3⟩
    rw [fair_emits_done h n d hm, show decodePacket (frame 0x05#8 0#32 []) = .ok ⟨0x05#8, 0#32, 0#16, 0xfffa#16, []⟩ by decide] at hp
    cases hp
    exact absurd h3 (by decide)
  · fin_cases h <;> decide

end Sys2Proof.Tests
end

/-! What one instruction can do: every way an engine's step ends, said once for both engines. -/

section

namespace Sys2Proof.Machine

open Sys2Proof

/-! ## The sender engine (R150 to R168) -/

/-- Every next state the sender engine can answer to `i` (R150, R151, R152). The handlers of an opened file
keep the procedures they run, for what those answer depends on the buffer. -/
inductive SenderStep (i : Instr) (s : State) : State → Prop where
  /-- R152, R153: a datagram that does not decode, or a packet the state does not handle. -/
  | drop (c : DropClass) : SenderStep i s (raiseDrop .sender c s)
  /-- R154: the requested file is not found. -/
  | requestMissing (hs : s.snd.state = .awaitReq) :
      SenderStep i s (((clearTimeouts .sender s).output (.tx .sender (frame 0x03#8 0#32 []))).mapS fun x =>
        { x with nfCount := 0#1, state := .missing })
  /-- R154, R155: the requested file is opened. -/
  | requestOpened (path img : Bytes) (u t : State) (hs : s.snd.state = .awaitReq)
      (ho : fileOpen (clearTimeouts .sender s) path = some img)
      (hf : fill (openFile img (clearTimeouts .sender s)) = .ok u) (ht : sendOrFinish u = .ok t) : SenderStep i s t
  /-- R159: an ACK that moves the window. -/
  | ackAdvances (next : SeqNo) (m : Int) (u t : State) (hs : s.snd.state = .sendWait)
      (hn : s.snd.windowStart.toNat < next.toNat) (hm : readMaxSequence s = .ok m)
      (hr : refill s.snd.windowStart.toNat s.snd.windowEnd.toInt
        (advanceWindow next m (clearTimeouts .sender s)) = .ok u)
      (ht : sendOrFinish u = .ok t) : SenderStep i s t
  /-- R159: an ACK that does not. -/
  | ackResends (t : State) (hs : s.snd.state = .sendWait)
      (ht : transmitWindow (clearTimeouts .sender s) = .ok t) : SenderStep i s t
  /-- R166: an acknowledgment out of band. -/
  | endsDefensively (hs : s.snd.state = .sendWait ∨ s.snd.state = .doneWait) :
      SenderStep i s (endDefensively (clearTimeouts .sender s))
  /-- R163. -/
  | doneAcked (hs : s.snd.state = .doneWait) : SenderStep i s (terminateS .success (clearTimeouts .sender s))
  /-- R167. -/
  | missingAcked (hs : s.snd.state = .missing) : SenderStep i s (terminateS .missingAcked (clearTimeouts .sender s))
  /-- R161, R162: a timeout at the cap. -/
  | timeoutExhausts (hs : s.snd.state = .sendWait) (hc : capReached s.cfg.retryCap (s.snd.toCount + 1) = true) :
      SenderStep i s (terminateS .retryExhausted (countTimeoutS s).1)
  /-- R161: a timeout below the cap. -/
  | timeoutResends (t : State) (hs : s.snd.state = .sendWait)
      (hc : capReached s.cfg.retryCap (s.snd.toCount + 1) = false)
      (ht : transmitWindow (countTimeoutS s).1 = .ok t) : SenderStep i s t
  /-- R164. -/
  | timeoutAfterDone (hs : s.snd.state = .doneWait) : SenderStep i s (terminateS .doneUnacked s)
  /-- R168: the second FILE_NOT_FOUND. -/
  | timeoutMissingAgain (hs : s.snd.state = .missing) :
      SenderStep i s ((s.output (.tx .sender (frame 0x03#8 0#32 []))).mapS fun x => { x with nfCount := 1#1 })
  /-- R168: no acknowledgment of it. -/
  | timeoutMissingEnds (hs : s.snd.state = .missing) : SenderStep i s (terminateS .missingUnacked s)
  /-- R151: SERVE while a session runs. -/
  | serveBusy (hi : i = .serve) (hs : senderActive s) : SenderStep i s (respond .busy s)
  /-- R151: SERVE taken. -/
  | serveStarts (hi : i = .serve) (hs : s.snd.state = .idle ∨ s.snd.state = .terminated) :
      SenderStep i s (respond .ok (s.mapS fun _ => { Sender.reset with state := .awaitReq }))

theorem sTakeFileRequest_step {i : Instr} {path : Bytes} {s t : State} (h : sTakeFileRequest path s = .ok t) :
    SenderStep i s t := by
  unfold sTakeFileRequest at h
  split at h
  case h_1 hs =>
    unfold takeRequest at h
    split at h
    · split at h
      · cases h
      · next he =>
        obtain ⟨-, rfl⟩ := emitPacket_eq_ok.mp he
        cases h
        exact .requestMissing hs
    · next ho =>
      split at h
      · cases h
      · next hf => exact .requestOpened _ _ _ _ hs ho hf h
  all_goals
    cases h
    exact .drop .ignored

theorem sTakeAck_step {i : Instr} {next : SeqNo} {s t : State} (h : sTakeAck next s = .ok t) : SenderStep i s t := by
  unfold sTakeAck at h
  split at h
  case h_1 hs =>
    unfold takeAck at h
    split_ifs at h with hn
    · split at h
      · cases h
      · next hm =>
        split at h
        · cases h
        · next hr => exact .ackAdvances _ _ _ _ hs hn hm hr h
    · exact .ackResends _ hs h
  all_goals
    cases h
    exact .drop .ignored

theorem sTakeDoneAck_step {i : Instr} {s t : State} (h : sTakeDoneAck s = .ok t) : SenderStep i s t := by
  unfold sTakeDoneAck at h
  split at h <;> cases h
  case h_1 hs => exact .endsDefensively (.inl hs)
  case h_2 hs => exact .doneAcked hs
  all_goals exact .drop .ignored

theorem sTakeFileNotFoundAck_step {i : Instr} {s t : State} (h : sTakeFileNotFoundAck s = .ok t) :
    SenderStep i s t := by
  unfold sTakeFileNotFoundAck at h
  split at h <;> cases h
  case h_1 hs => exact .endsDefensively (.inl hs)
  case h_2 hs => exact .endsDefensively (.inr hs)
  case h_3 hs => exact .missingAcked hs
  all_goals exact .drop .ignored

theorem sTakeUnexpected_step {i : Instr} {s t : State} (h : sTakeUnexpected s = .ok t) : SenderStep i s t := by
  cases h
  exact .drop .ignored

theorem sReceive_step {i : Instr} {d : Datagram} {s t : State} (h : sReceive d s = .ok t) : SenderStep i s t := by
  unfold sReceive at h
  split at h
  · next c _ =>
    cases h
    exact .drop c
  · split at h
    · exact sTakeFileRequest_step h
    · exact sTakeAck_step h
    · exact sTakeFileNotFoundAck_step h
    · exact sTakeDoneAck_step h
    · exact sTakeUnexpected_step h

theorem sTimeout_step {i : Instr} {s t : State} (h : sTimeout s = .ok t) : SenderStep i s t := by
  unfold sTimeout at h
  split at h
  case h_1 hs =>
    unfold timeoutSendWait at h
    split_ifs at h with hc
    · cases h
      exact .timeoutExhausts hs hc
    · exact .timeoutResends _ hs (Bool.eq_false_of_not_eq_true hc) h
  case h_2 hs =>
    cases h
    exact .timeoutAfterDone hs
  case h_3 hs =>
    unfold timeoutMissing at h
    split_ifs at h
    · split at h
      · cases h
      · next he =>
        obtain ⟨-, rfl⟩ := emitPacket_eq_ok.mp he
        cases h
        exact .timeoutMissingAgain hs
    · cases h
      exact .timeoutMissingEnds hs
  all_goals cases h

theorem sServe_step {i : Instr} {s t : State} (hi : i = .serve) (h : sServe s = .ok t) : SenderStep i s t := by
  unfold sServe at h
  split at h <;> cases h
  case h_1 hs => exact .serveBusy hi (.inl hs)
  case h_2 hs => exact .serveBusy hi (.inr (.inl hs))
  case h_3 hs => exact .serveBusy hi (.inr (.inr (.inl hs)))
  case h_4 hs => exact .serveBusy hi (.inr (.inr (.inr hs)))
  case h_5 hs => exact .serveStarts hi (.inl hs)
  case h_6 hs => exact .serveStarts hi (.inr hs)

/-- An instruction of the sender ends in one of the ways of `SenderStep`. -/
theorem exec_senderStep {i : Instr} {s t : State} (he : engineOf i = some .sender) (h : exec i s = .next t) :
    SenderStep i s t := by
  cases i with
  | fileRequest e seq path => cases he; exact sTakeFileRequest_step (outcome_eq_next.mp h)
  | data e seq payload => cases he; exact sTakeUnexpected_step (outcome_eq_next.mp h)
  | ack e seq next => cases he; exact sTakeAck_step (outcome_eq_next.mp h)
  | fileNotFound e seq => cases he; exact sTakeUnexpected_step (outcome_eq_next.mp h)
  | fileNotFoundAck e seq => cases he; exact sTakeFileNotFoundAck_step (outcome_eq_next.mp h)
  | done e seq => cases he; exact sTakeUnexpected_step (outcome_eq_next.mp h)
  | doneAck e seq => cases he; exact sTakeDoneAck_step (outcome_eq_next.mp h)
  | serve => exact sServe_step rfl (outcome_eq_next.mp h)
  | rxS d => exact sReceive_step (outcome_eq_next.mp h)
  | timeoutS => exact sTimeout_step (outcome_eq_next.mp h)
  | reset | fetch | rxR | timeoutR | drainEnd => cases he

/-! ## The receiver engine (R200 to R226) -/

/-- R206, R210: the receiver as `AcceptData` finds it, whether the DATA is the first one or not. -/
def takingData (s : State) : State := (clearTimeouts .receiver s).mapR fun x => { x with state := .receiving }

/-- R207: the receiver after DONE `seq`, which ends the session with `st`. -/
def doneTaken (seq : SeqNo) (st : EndStatus) (s : State) : State :=
  terminateR st .flushedOnDone
    ((flushed ((clearTimeouts .receiver s).output (.tx .receiver (frame 0x06#8 seq [])))).output (.sinkClose st))

/-- R208: the receiver after FILE_NOT_FOUND `seq`. -/
def fileNotFoundTaken (seq : SeqNo) (s : State) : State :=
  terminateR .fileMissing .abortedOnMissing
    (((clearTimeouts .receiver s).output (.tx .receiver (frame 0x04#8 seq []))).output .sinkAbort)

/-- R201: the receiver after a FETCH taken. -/
def fetchTaken (path : Bytes) (s : State) : State :=
  respond .ok ((((startFetch path s).output (.tx .receiver (frame 0x00#8 0#32 path))).output (.sinkOpen path)).mapR
    fun x => { x with state := .reqSent })

/-- Every next state the receiver engine can answer to `i` (R200, R201, R202). The chunk of a DATA is in
range where `i` can be encoded (R95). -/
inductive ReceiverStep (i : Instr) (s : State) : State → Prop where
  /-- R202, R203: a datagram that does not decode, or a packet the state does not handle. -/
  | drop (c : DropClass) : ReceiverStep i s (batchCounted (raiseDrop .receiver c s))
  /-- R206, R210: DATA in a session. -/
  | data (seq : SeqNo) (payload : Bytes) (hs : receiverActive s) (hp : i.wf = true → payload.length ≤ chunkSize) :
      ReceiverStep i s (batchCounted (acceptData seq payload (takingData s)))
  /-- R207. -/
  | done (seq : SeqNo) (st : EndStatus) (hs : receiverActive s) (hst : st = .success ∨ st = .incomplete) :
      ReceiverStep i s (doneTaken seq st s)
  /-- R208. -/
  | fileNotFound (seq : SeqNo) (hs : receiverActive s) : ReceiverStep i s (fileNotFoundTaken seq s)
  /-- R205, R225: a timeout at the cap. -/
  | timeoutExhausts (hs : receiverActive s) (hc : capReached s.cfg.retryCap (s.rcv.toCount + 1) = true) :
      ReceiverStep i s (exhaustR (countTimeoutR s).1)
  /-- R205: the request is sent once more. -/
  | timeoutRequests (path : Bytes) (hs : s.rcv.state = .reqSent) (hp : s.rcv.path = some path)
      (hc : capReached s.cfg.retryCap (s.rcv.toCount + 1) = false) :
      ReceiverStep i s (((countTimeoutR s).1.output (.tx .receiver (frame 0x00#8 0#32 path))).mapR fun x =>
        { x with reqCount := 1#1 })
  /-- R205: it was sent again before. -/
  | timeoutWaits (hs : s.rcv.state = .reqSent) (hc : capReached s.cfg.retryCap (s.rcv.toCount + 1) = false) :
      ReceiverStep i s (countTimeoutR s).1
  /-- R225: a timeout below the cap. -/
  | timeoutAcks (hs : s.rcv.state = .receiving) (hc : capReached s.cfg.retryCap (s.rcv.toCount + 1) = false) :
      ReceiverStep i s (acknowledged (countTimeoutR s).1)
  /-- R221. -/
  | drainEnd (hs : s.rcv.state = .receiving) (hb : 1 ≤ s.rcv.bc) : ReceiverStep i s (acknowledged s)
  /-- R201: FETCH refused. -/
  | fetchRefused (path : Bytes) (c : CmdCode) (hi : i = .fetch path) (hc : c = .busy ∨ c = .badPath) :
      ReceiverStep i s (respond c s)
  /-- R201: FETCH taken. -/
  | fetchStarts (path : Bytes) (hi : i = .fetch path) (hs : ¬ receiverActive s) (hp : path.length ≤ chunkSize) :
      ReceiverStep i s (fetchTaken path s)

/-- Outside `R_RECEIVING` the batch epilogue does nothing. -/
theorem batchCounted_eq_self {s : State} (h : s.rcv.state ≠ .receiving) : batchCounted s = s := if_neg h

theorem rTakeUnexpected_step {i : Instr} {s t : State} (h : rTakeUnexpected s = .ok t) : ReceiverStep i s t := by
  simp only [rTakeUnexpected, thenBatchCount, batchCount_eq] at h
  cases h
  exact .drop .ignored

theorem rTakeData_step {i : Instr} {seq : SeqNo} {payload : Bytes} {s t : State}
    (hp : i.wf = true → payload.length ≤ chunkSize) (h : rTakeData seq payload s = .ok t) : ReceiverStep i s t := by
  simp only [rTakeData, thenBatchCount, batchCount_eq, rHandleData] at h
  split at h <;> cases h
  case h_1 hs => exact .data seq payload (.inl hs) hp
  case h_2 hs =>
    have he : takingData s = clearTimeouts .receiver s := by
      simp only [takingData, State.mapR, clearTimeouts, ← hs]
    exact he ▸ ReceiverStep.data seq payload (.inr hs) hp
  all_goals exact .drop .ignored

theorem takeDone_eq (seq : SeqNo) (s : State) :
    ∃ st, (st = .success ∨ st = .incomplete) ∧
      thenBatchCount (takeDone seq (clearTimeouts .receiver s)) = .ok (doneTaken seq st s) := by
  unfold takeDone
  rw [emitPacket_eq_ok.mpr ⟨⟨by decide, seq.isLt, by decide⟩, rfl⟩]
  simp only [flush_eq, thenBatchCount, batchCount_eq, BitVec.ofNat_toNat, BitVec.setWidth_eq]
  rw [batchCounted_eq_self (by simp)]
  refine ⟨_, ?_, rfl⟩
  split_ifs <;> simp

theorem rTakeDone_step {i : Instr} {seq : SeqNo} {s t : State} (h : rTakeDone seq s = .ok t) : ReceiverStep i s t := by
  obtain ⟨st, hst, he⟩ := takeDone_eq seq s
  unfold rTakeDone rHandleDone at h
  split at h
  case h_1 hs =>
    rw [he] at h
    cases h
    exact .done seq st (.inl hs) hst
  case h_2 hs =>
    rw [he] at h
    cases h
    exact .done seq st (.inr hs) hst
  all_goals exact rTakeUnexpected_step h

theorem takeFileNotFound_eq (seq : SeqNo) (s : State) :
    thenBatchCount (takeFileNotFound seq (clearTimeouts .receiver s)) = .ok (fileNotFoundTaken seq s) := by
  unfold takeFileNotFound
  rw [emitPacket_eq_ok.mpr ⟨⟨by decide, seq.isLt, by decide⟩, rfl⟩]
  simp only [thenBatchCount, batchCount_eq, BitVec.ofNat_toNat, BitVec.setWidth_eq]
  rw [batchCounted_eq_self (by simp)]
  rfl

theorem rTakeFileNotFound_step {i : Instr} {seq : SeqNo} {s t : State} (h : rTakeFileNotFound seq s = .ok t) :
    ReceiverStep i s t := by
  unfold rTakeFileNotFound rHandleFileNotFound at h
  split at h
  case h_1 hs =>
    rw [takeFileNotFound_eq] at h
    cases h
    exact .fileNotFound seq (.inl hs)
  case h_2 hs =>
    rw [takeFileNotFound_eq] at h
    cases h
    exact .fileNotFound seq (.inr hs)
  all_goals exact rTakeUnexpected_step h

theorem rReceive_step {d : Datagram} {s t : State} (h : rReceive d s = .ok t) : ReceiverStep (.rxR d) s t := by
  unfold rReceive at h
  split at h
  · next c _ =>
    rw [thenBatchCount, batchCount_eq] at h
    cases h
    exact .drop c
  · next p hd =>
    split at h
    · exact rTakeData_step (fun hw => by simp [Instr.wf, hd, Except.isOk, Except.toBool] at hw) h
    · exact rTakeFileNotFound_step h
    · exact rTakeDone_step h
    · exact rTakeUnexpected_step h

theorem timeoutReqSent_step {i : Instr} {s t : State} (hs : s.rcv.state = .reqSent) (h : timeoutReqSent s = .ok t) :
    ReceiverStep i s t := by
  unfold timeoutReqSent at h
  split_ifs at h with hc hq
  · cases h
    exact .timeoutExhausts (.inl hs) hc
  · unfold sendRequest at h
    split at h
    · cases h
    · next he =>
      split at he
      · cases he
      · next hp =>
        obtain ⟨-, rfl⟩ := emitPacket_eq_ok.mp he
        cases h
        exact .timeoutRequests _ hs (readReg_eq_ok.mp hp) (Bool.eq_false_of_not_eq_true hc)
  · cases h
    exact .timeoutWaits hs (Bool.eq_false_of_not_eq_true hc)

theorem timeoutReceiving_step {i : Instr} {s t : State} (hs : s.rcv.state = .receiving)
    (h : timeoutReceiving s = .ok t) : ReceiverStep i s t := by
  unfold timeoutReceiving at h
  split_ifs at h with hc
  · cases h
    exact .timeoutExhausts (.inr hs) hc
  · rw [ackStep_eq] at h
    cases h
    exact .timeoutAcks hs (Bool.eq_false_of_not_eq_true hc)

theorem rTimeout_step {i : Instr} {s t : State} (h : rTimeout s = .ok t) : ReceiverStep i s t := by
  unfold rTimeout at h
  split at h
  case h_1 hs => exact timeoutReqSent_step hs h
  case h_2 hs => exact timeoutReceiving_step hs h
  all_goals cases h

theorem rDrainEnd_step {i : Instr} {s t : State} (h : rDrainEnd s = .ok t) : ReceiverStep i s t := by
  unfold rDrainEnd at h
  split at h
  case h_1 hs =>
    split_ifs at h with hb
    rw [ackStep_eq] at h
    cases h
    exact .drainEnd hs hb
  all_goals cases h

/-- R201: a FETCH taken always completes where the path is in range. -/
theorem takeFetch_eq {path : Bytes} (s : State) (hp : path.length ≤ chunkSize) :
    takeFetch path s = .ok (fetchTaken path s) := by
  unfold takeFetch sendRequest
  simp only [startFetch, mapR_rcv, readReg]
  rw [emitPacket_eq_ok.mpr ⟨⟨by decide, by decide, hp⟩, rfl⟩]
  rfl

theorem rFetch_step {path : Bytes} {s t : State} (h : rFetch path s = .ok t) : ReceiverStep (.fetch path) s t := by
  have start (hs : ¬ receiverActive s)
      (h : (if chunkSize < path.length then .ok (respond .badPath s) else takeFetch path s) = Except.ok t) :
      ReceiverStep (.fetch path) s t := by
    split_ifs at h with hp
    · cases h
      exact .fetchRefused path .badPath rfl (.inr rfl)
    · rw [takeFetch_eq s (Nat.le_of_not_lt hp)] at h
      cases h
      exact .fetchStarts path rfl hs (Nat.le_of_not_lt hp)
  unfold rFetch at h
  split at h
  case h_1 | h_2 =>
    cases h
    exact .fetchRefused path .busy rfl (.inl rfl)
  all_goals next hs => exact start (by simp [receiverActive, hs]) h

/-- An instruction of the receiver ends in one of the ways of `ReceiverStep`. -/
theorem exec_receiverStep {i : Instr} {s t : State} (he : engineOf i = some .receiver) (h : exec i s = .next t) :
    ReceiverStep i s t := by
  cases i with
  | fileRequest e seq path => cases he; exact rTakeUnexpected_step (outcome_eq_next.mp h)
  | data e seq payload => cases he; exact rTakeData_step (fun hw => of_decide_eq_true hw) (outcome_eq_next.mp h)
  | ack e seq next => cases he; exact rTakeUnexpected_step (outcome_eq_next.mp h)
  | fileNotFound e seq => cases he; exact rTakeFileNotFound_step (outcome_eq_next.mp h)
  | fileNotFoundAck e seq => cases he; exact rTakeUnexpected_step (outcome_eq_next.mp h)
  | done e seq => cases he; exact rTakeDone_step (outcome_eq_next.mp h)
  | doneAck e seq => cases he; exact rTakeUnexpected_step (outcome_eq_next.mp h)
  | fetch path => exact rFetch_step (outcome_eq_next.mp h)
  | rxR d => exact rReceive_step (outcome_eq_next.mp h)
  | timeoutR => exact rTimeout_step (outcome_eq_next.mp h)
  | drainEnd => exact rDrainEnd_step (outcome_eq_next.mp h)
  | reset | serve | rxS | timeoutS => cases he

/-- R104, R290: a next state is the reset one, or one of the sender's or of the receiver's. -/
theorem exec_cases {i : Instr} {s t : State} (h : exec i s = .next t) :
    (i = .reset ∧ t = { s with snd := Sender.reset, rcv := Receiver.reset s.cfg.rbDepth }) ∨
      SenderStep i s t ∨ ReceiverStep i s t := by
  rcases he : engineOf i with _ | _ | _
  · cases i <;> cases he
    cases h
    exact .inl ⟨rfl, rfl⟩
  · exact .inr (.inl (exec_senderStep he h))
  · exact .inr (.inr (exec_receiverStep he h))

end Sys2Proof.Machine

end

section

namespace Sys2Proof.Machine

open Sys2Proof

/-! ## What a step leaves unchanged (R40, R72, R73) -/

/-- A step of one block: the parameters and the waiting inputs stay, outputs are appended. -/
structure OutputsAppended (s t : State) : Prop where
  cfg_eq : t.cfg = s.cfg
  inputs_eq : t.inputs = s.inputs
  out_prefix : s.out <+: t.out

/-- R73: a step of the sender engine leaves the receiver's registers as well. -/
structure SenderFrame (s t : State) : Prop extends OutputsAppended s t where
  rcv_eq : t.rcv = s.rcv

/-- R73: a step of the receiver engine leaves the sender's registers as well. -/
structure ReceiverFrame (s t : State) : Prop extends OutputsAppended s t where
  snd_eq : t.snd = s.snd

theorem SenderFrame.trans {s t u : State} (h : SenderFrame s t) (h' : SenderFrame t u) : SenderFrame s u where
  cfg_eq := h'.cfg_eq.trans h.cfg_eq
  inputs_eq := h'.inputs_eq.trans h.inputs_eq
  out_prefix := h.out_prefix.trans h'.out_prefix
  rcv_eq := h'.rcv_eq.trans h.rcv_eq

theorem ReceiverFrame.trans {s t u : State} (h : ReceiverFrame s t) (h' : ReceiverFrame t u) : ReceiverFrame s u where
  cfg_eq := h'.cfg_eq.trans h.cfg_eq
  inputs_eq := h'.inputs_eq.trans h.inputs_eq
  out_prefix := h.out_prefix.trans h'.out_prefix
  snd_eq := h'.snd_eq.trans h.snd_eq

/-- Register writes and outputs of the sender engine, in any number. -/
theorem SenderFrame.mapS_outputs (s : State) (f : Sender → Sender) (os : List Output) :
    SenderFrame s ((s.outputs os).mapS f) :=
  ⟨⟨rfl, rfl, List.prefix_append _ _⟩, rfl⟩

theorem SenderFrame.mapS (s : State) (f : Sender → Sender) : SenderFrame s (s.mapS f) :=
  ⟨⟨rfl, rfl, List.prefix_rfl⟩, rfl⟩

theorem SenderFrame.clearTimeouts (s : State) : SenderFrame s (clearTimeouts .sender s) :=
  .mapS s fun x => { x with toCount := 0 }

theorem SenderFrame.countTimeout (s : State) : SenderFrame s (countTimeoutS s).1 :=
  .mapS s fun x => { x with toCount := x.toCount + 1 }

theorem SenderFrame.terminate (st : EndStatus) (s : State) : SenderFrame s (terminateS st s) :=
  ⟨⟨rfl, rfl, List.prefix_append _ _⟩, rfl⟩

theorem SenderFrame.respond (c : CmdCode) (s : State) : SenderFrame s (respond c s) :=
  ⟨⟨rfl, rfl, List.prefix_append _ _⟩, rfl⟩

theorem ReceiverFrame.mapR (s : State) (f : Receiver → Receiver) : ReceiverFrame s (s.mapR f) :=
  ⟨⟨rfl, rfl, List.prefix_rfl⟩, rfl⟩

theorem ReceiverFrame.output (s : State) (o : Output) : ReceiverFrame s (s.output o) :=
  ⟨⟨rfl, rfl, List.prefix_append _ _⟩, rfl⟩

theorem ReceiverFrame.raiseDrop (c : DropClass) (s : State) : ReceiverFrame s (raiseDrop .receiver c s) :=
  .mapR s fun x => { x with lastDrop := c }

theorem ReceiverFrame.clearTimeouts (s : State) : ReceiverFrame s (clearTimeouts .receiver s) :=
  .mapR s fun x => { x with toCount := 0 }

theorem ReceiverFrame.countTimeout (s : State) : ReceiverFrame s (countTimeoutR s).1 :=
  .mapR s fun x => { x with toCount := x.toCount + 1 }

theorem ReceiverFrame.terminate (st : EndStatus) (r : RState) (s : State) : ReceiverFrame s (terminateR st r s) :=
  ⟨⟨rfl, rfl, List.prefix_append _ _⟩, rfl⟩

/-! The sender's procedures. -/

/-- R158: sending the window writes no register. -/
theorem transmitWindow_eq_ok {s t : State} (h : transmitWindow s = .ok t) : ∃ os, t = s.outputs os := by
  unfold transmitWindow at h
  split at h <;> cases h
  exact ⟨_, rfl⟩

/-- R157: nothing but the session state is written. -/
theorem sendOrFinish_eq_ok {s t : State} (h : sendOrFinish s = .ok t) :
    ∃ os st, t = (s.outputs os).mapS fun x => { x with state := st } := by
  unfold sendOrFinish at h
  split at h
  · cases h
  · split_ifs at h
    · split at h
      · cases h
      · next he =>
        obtain ⟨-, rfl⟩ := emitPacket_eq_ok.mp he
        cases h
        exact ⟨[_], _, rfl⟩
    · split at h
      · cases h
      · next he =>
        obtain ⟨os, rfl⟩ := transmitWindow_eq_ok he
        cases h
        exact ⟨os, _, rfl⟩

/-- R156: nothing but the buffer is written. -/
theorem fill_eq_ok {s t : State} (h : fill s = .ok t) :
    ∃ wbuf, t = s.mapS fun x => { x with wbuf := wbuf } := by
  unfold fill at h
  split at h <;> cases h
  exact ⟨_, rfl⟩

/-- R160: nothing but the buffer is written. -/
theorem refill_eq_ok {a : Nat} {b : Int} {s t : State} (h : refill a b s = .ok t) :
    ∃ wbuf, t = s.mapS fun x => { x with wbuf := wbuf } := by
  unfold refill at h
  split at h <;> cases h
  exact ⟨_, rfl⟩

theorem transmitWindow_frame {s t : State} (h : transmitWindow s = .ok t) : SenderFrame s t := by
  obtain ⟨os, rfl⟩ := transmitWindow_eq_ok h
  exact .mapS_outputs s id os

theorem sendOrFinish_frame {s t : State} (h : sendOrFinish s = .ok t) : SenderFrame s t := by
  obtain ⟨os, st, rfl⟩ := sendOrFinish_eq_ok h
  exact .mapS_outputs s _ os

theorem fill_frame {s t : State} (h : fill s = .ok t) : SenderFrame s t := by
  obtain ⟨wbuf, rfl⟩ := fill_eq_ok h
  exact .mapS s _

theorem refill_frame {a : Nat} {b : Int} {s t : State} (h : refill a b s = .ok t) : SenderFrame s t := by
  obtain ⟨wbuf, rfl⟩ := refill_eq_ok h
  exact .mapS s _

/-- R73: a step of the sender engine stays in its frame. -/
theorem SenderStep.frame {i : Instr} {s t : State} (h : SenderStep i s t) : SenderFrame s t := by
  have clear := SenderFrame.clearTimeouts s
  have count := SenderFrame.countTimeout s
  cases h with
  | drop c => exact .mapS s fun x => { x with lastDrop := c }
  | requestMissing => exact clear.trans (.mapS_outputs _ _ [_])
  | requestOpened path img u t hs ho hf ht =>
    have hopen : SenderFrame s (openFile img (Machine.clearTimeouts .sender s)) := clear.trans (.mapS _ _)
    exact hopen.trans ((fill_frame hf).trans (sendOrFinish_frame ht))
  | ackAdvances next m u t hs hn hm hr ht =>
    have hadv : SenderFrame s (advanceWindow next m (Machine.clearTimeouts .sender s)) := clear.trans (.mapS _ _)
    exact hadv.trans ((refill_frame hr).trans (sendOrFinish_frame ht))
  | ackResends t hs ht => exact clear.trans (transmitWindow_frame ht)
  | endsDefensively => exact clear.trans ((SenderFrame.mapS _ _).trans (.terminate _ _))
  | doneAcked | missingAcked => exact clear.trans (.terminate _ _)
  | timeoutExhausts => exact count.trans (.terminate _ _)
  | timeoutResends t hs hc ht => exact count.trans (transmitWindow_frame ht)
  | timeoutAfterDone | timeoutMissingEnds => exact .terminate _ s
  | timeoutMissingAgain => exact .mapS_outputs s _ [_]
  | serveBusy => exact .respond _ s
  | serveStarts => exact (SenderFrame.mapS s _).trans (.respond _ _)

/-! The receiver's procedures. -/

theorem flushed_frame (s : State) : ReceiverFrame s (flushed s) :=
  ⟨⟨rfl, rfl, List.prefix_append _ _⟩, rfl⟩

theorem acknowledged_frame (s : State) : ReceiverFrame s (acknowledged s) :=
  (flushed_frame s).trans ⟨⟨rfl, rfl, List.prefix_append _ _⟩, rfl⟩

theorem batchCounted_frame (s : State) : ReceiverFrame s (batchCounted s) := by
  unfold batchCounted
  split_ifs
  · exact acknowledged_frame s
  · exact .mapR s fun x => { x with bc := x.bc + 1 }
  · exact .mapR s id

/-- R211: a chunk is dropped, or fills a slot that is free and not for 2^32 - 1. -/
theorem acceptData_cases (seq : SeqNo) (payload : Bytes) (s : State) :
    (∃ c, acceptData seq payload s = raiseDrop .receiver c s) ∨
      (seq.toNat < 2 ^ 32 - 1 ∧ s.rcv.writeCursor.toNat ≤ seq.toNat ∧
        acceptData seq payload s = s.mapR fun x =>
          { x with rb := x.rb.set (seq.toNat - x.writeCursor.toNat) (some (Slot.ofBytes payload)) }) := by
  unfold acceptData
  split_ifs with hmax hold hfar hseen
  · exact .inl ⟨_, rfl⟩
  · exact .inl ⟨_, rfl⟩
  · exact .inl ⟨_, rfl⟩
  · exact .inl ⟨_, rfl⟩
  · refine .inr ⟨?_, by omega, rfl⟩
    have : seq.toNat ≠ 2 ^ 32 - 1 := fun h => hmax (BitVec.eq_of_toNat_eq h)
    omega

theorem acceptData_frame (seq : SeqNo) (payload : Bytes) (s : State) : ReceiverFrame s (acceptData seq payload s) := by
  obtain ⟨c, h⟩ | ⟨-, -, h⟩ := acceptData_cases seq payload s <;> rw [h]
  · exact .raiseDrop c s
  · exact .mapR s _

/-- R73: a step of the receiver engine stays in its frame. -/
theorem ReceiverStep.frame {i : Instr} {s t : State} (h : ReceiverStep i s t) : ReceiverFrame s t := by
  have clear := ReceiverFrame.clearTimeouts s
  have count := ReceiverFrame.countTimeout s
  cases h with
  | drop c => exact (ReceiverFrame.raiseDrop c s).trans (batchCounted_frame _)
  | data seq payload =>
    have htaking : ReceiverFrame s (takingData s) := clear.trans (.mapR _ _)
    exact htaking.trans ((acceptData_frame seq payload _).trans (batchCounted_frame _))
  | done seq st =>
    exact clear.trans ((ReceiverFrame.output _ _).trans ((flushed_frame _).trans
      ((ReceiverFrame.output _ _).trans (.terminate _ _ _))))
  | fileNotFound seq =>
    exact clear.trans ((ReceiverFrame.output _ _).trans ((ReceiverFrame.output _ _).trans (.terminate _ _ _)))
  | timeoutExhausts => exact count.trans ((ReceiverFrame.output _ _).trans (.terminate _ _ _))
  | timeoutRequests => exact count.trans ((ReceiverFrame.output _ _).trans (.mapR _ _))
  | timeoutWaits => exact count
  | timeoutAcks => exact count.trans (acknowledged_frame _)
  | drainEnd => exact acknowledged_frame s
  | fetchRefused => exact .output s _
  | fetchStarts path =>
    have hstart : ReceiverFrame s (startFetch path s) := .mapR s _
    exact hstart.trans ((ReceiverFrame.output _ _).trans ((ReceiverFrame.output _ _).trans
      ((ReceiverFrame.mapR _ _).trans (.output _ _))))

/-- R40, R72: every instruction keeps the parameters and the waiting inputs, and appends its outputs. -/
theorem exec_outputsAppended {i : Instr} {s t : State} (h : exec i s = .next t) : OutputsAppended s t := by
  obtain ⟨-, rfl⟩ | hs | hr := exec_cases h
  · exact ⟨rfl, rfl, List.prefix_rfl⟩
  · exact hs.frame.toOutputsAppended
  · exact hr.frame.toOutputsAppended

/-- Settles O44: by the frames of the two engines' steps; RESET emits nothing. -/
theorem outputsAreOnlyAppended : Obligations.OutputsAreOnlyAppended := by
  intro i s t h
  obtain ⟨hcfg, hinputs, os, hout⟩ := exec_outputsAppended h
  exact ⟨hcfg, hinputs, os, hout.symm⟩

end Sys2Proof.Machine

end

section

namespace Sys2Proof.Machine

open Sys2Proof

/-! ## The invariant: counts and the sender's window (R29, R42, R49 to R51) -/

/-- R9: a retry cap is at least 1, so a count of 0 is below it. -/
theorem countBelowCap_zero {c : Config} (hc : c.wf = true) (live : Prop) : CountBelowCap c.retryCap 0 live := by
  unfold Config.wf at hc
  unfold CountBelowCap
  rcases hcap : c.retryCap with _ | n <;> simp_all
  omega

/-- A count that stays in range stays so where it need no longer be below the cap. -/
theorem CountBelowCap.mono {cap : Option Nat} {n : Nat} {live live' : Prop} (h : CountBelowCap cap n live)
    (hl : live' → live) : CountBelowCap cap n live' := by
  cases cap with
  | none => trivial
  | some m => exact ⟨h.1, fun hlive => h.2 (hl hlive)⟩

/-- R162, R226: one more timeout is in range, and below the cap where the cap is not reached. -/
theorem CountBelowCap.succ {cap : Option Nat} {n : Nat} {live live' : Prop} (h : CountBelowCap cap n live)
    (hl : live) (hl' : live' → capReached cap (n + 1) = false) : CountBelowCap cap (n + 1) live' := by
  cases cap with
  | none => trivial
  | some m =>
    refine ⟨h.2 hl, fun hlive => ?_⟩
    have hcap := hl' hlive
    simp only [capReached, decide_eq_false_iff_not] at hcap
    omega

/-- The open file depends on three registers alone. -/
theorem FileOpened.congr {x y : Sender} {img : Bytes} (h : FileOpened x img) (hf : y.file = x.file)
    (hz : y.fileSize = x.fileSize) (hm : y.maxSequence = x.maxSequence) : FileOpened y img where
  size_le := h.size_le
  file_eq := hf.trans h.file_eq
  fileSize_eq := hz.trans h.fileSize_eq
  maxSequence_eq := hm.trans h.maxSequence_eq

/-- The number of the last chunk, as the register reads. -/
theorem FileOpened.maxSequence_toInt {x : Sender} {img : Bytes} (h : FileOpened x img) :
    (BitVec.ofInt 33 (maxSequenceOf img.length)).toInt = maxSequenceOf img.length :=
  toInt_ofInt_bound (maxSequenceOf_range h.size_le)

theorem readMaxSequence_eq_ok {s : State} {img : Bytes} {m : Int} (ho : FileOpened s.snd img)
    (h : readMaxSequence s = .ok m) : m = maxSequenceOf img.length := by
  simp only [readMaxSequence, ho.maxSequence_eq, readReg, ho.maxSequence_toInt] at h
  exact (Except.ok.inj h).symm

/-- R50: a window bound as it is stored reads back. -/
theorem windowBounded_of_eq {x : Sender} {img : Bytes} (hl : img.length ≤ fileSizeMax)
    (h : x.windowEnd = BitVec.ofInt 33 (windowEndOf x.windowStart.toNat (maxSequenceOf img.length))) :
    WindowBounded x img := by
  unfold WindowBounded
  rw [h]
  exact toInt_ofInt_bound (windowEndOf_range hl)

/-- R47 to R51: the window of an open file, its chunks buffered, in a running session. -/
structure WindowReady (x : Sender) (img : Bytes) : Prop where
  opened : FileOpened x img
  bounded : WindowBounded x img
  buffered : WindowBuffered x img
  wbuf_length : x.wbuf.length = windowSize
  slots : SlotsLegal x.wbuf
  status_eq : x.status = .none

/-- R29: the count of timeouts is in range, below the cap in `S_SEND_WAIT`. -/
theorem SenderInv.count {c : Config} {x : Sender} (h : SenderInv c x) :
    CountBelowCap c.retryCap x.toCount (x.state = .sendWait) := by
  obtain ⟨-, -, hcount, -⟩ := h
  exact hcount

/-- In `S_SEND_WAIT` the window is ready and begins inside the file. -/
theorem SenderInv.sendWait {c : Config} {x : Sender} (h : SenderInv c x) (hs : x.state = .sendWait) :
    ∃ img, WindowReady x img ∧ (x.windowStart.toNat : Int) ≤ maxSequenceOf img.length ∧
      CountBelowCap c.retryCap x.toCount True := by
  obtain ⟨hlen, hslots, hcount, hsession⟩ := h
  rw [hs] at hsession
  obtain ⟨hst, img, ho, hb, hw, hle⟩ := hsession
  exact ⟨img, ⟨ho, hb, hw, hlen, hslots, hst⟩, hle, hcount.mono fun _ => hs⟩

/-- A ready window makes a legal `S_SEND_WAIT`. -/
theorem WindowReady.sendWait {c : Config} {x : Sender} {img : Bytes} (h : WindowReady x img)
    (hc : CountBelowCap c.retryCap x.toCount True) (hle : (x.windowStart.toNat : Int) ≤ maxSequenceOf img.length) :
    SenderInv c { x with state := .sendWait } :=
  ⟨h.wbuf_length, h.slots, hc.mono fun _ => trivial, h.status_eq, img, h.opened.congr rfl rfl rfl, h.bounded, h.buffered,
    hle⟩

/-- A window past the file makes a legal `S_DONE_WAIT`. -/
theorem WindowReady.doneWait {c : Config} {x : Sender} {img : Bytes} (h : WindowReady x img)
    (hc : CountBelowCap c.retryCap x.toCount True) (hlt : maxSequenceOf img.length < (x.windowStart.toNat : Int)) :
    SenderInv c { x with state := .doneWait } :=
  ⟨h.wbuf_length, h.slots, hc.mono fun _ => trivial, h.status_eq, img, h.opened.congr rfl rfl rfl, h.bounded, hlt⟩

/-- The registers of a session that waits for a request, or has reported a missing file. -/
theorem SenderInv.initial {c : Config} {x : Sender} (h : SenderInv c x)
    (hs : x.state = .awaitReq ∨ x.state = .missing) : WindowInitial x ∧ x.status = .none := by
  obtain ⟨-, -, -, hsession⟩ := h
  rcases hs with hs | hs <;> rw [hs] at hsession
  · exact ⟨hsession.1, hsession.2.1⟩
  · exact hsession

/-- R26: a session that sends has a file open. -/
theorem SenderInv.opened {c : Config} {x : Sender} (h : SenderInv c x)
    (hs : x.state = .sendWait ∨ x.state = .doneWait) : ∃ img, FileOpened x img ∧ WindowBounded x img := by
  obtain ⟨-, -, -, hsession⟩ := h
  rcases hs with hs | hs <;> rw [hs] at hsession
  · obtain ⟨-, img, ho, hb, -⟩ := hsession
    exact ⟨img, ho, hb⟩
  · obtain ⟨-, img, ho, hb, -⟩ := hsession
    exact ⟨img, ho, hb⟩

/-- R25, R26, R50: whatever the session state, either no file is open, or one is, and the bounds are R50's
or, after a defensive end, the initial ones. -/
theorem SenderInv.window {c : Config} {x : Sender} (h : SenderInv c x) :
    WindowInitial x ∨ ∃ img, FileOpened x img ∧ (WindowBounded x img ∨ x.windowEnd = 4#33) := by
  obtain ⟨-, -, -, hsession⟩ := h
  split at hsession
  · exact .inl hsession.1
  · exact .inl hsession.1
  · obtain ⟨-, img, ho, hb, -⟩ := hsession
    exact .inr ⟨img, ho, .inl hb⟩
  · obtain ⟨-, img, ho, hb, -⟩ := hsession
    exact .inr ⟨img, ho, .inl hb⟩
  · exact .inl hsession.1
  · obtain ⟨-, hi | ⟨img, ho, hb | ⟨-, -, he⟩⟩⟩ := hsession
    · exact .inl hi
    · exact .inr ⟨img, ho, .inl hb⟩
    · exact .inr ⟨img, ho, .inr he⟩

/-! ## The sender's steps keep its invariant -/

theorem WindowInitial.congr {x y : Sender} (h : WindowInitial x) (ha : y.windowStart = x.windowStart)
    (he : y.windowEnd = x.windowEnd) (hm : y.maxSequence = x.maxSequence) (hz : y.fileSize = x.fileSize)
    (hf : y.file = x.file) : WindowInitial y where
  windowStart_eq := ha.trans h.windowStart_eq
  windowEnd_eq := he.trans h.windowEnd_eq
  maxSequence_eq := hm.trans h.maxSequence_eq
  fileSize_eq := hz.trans h.fileSize_eq
  file_eq := hf.trans h.file_eq

/-- R29, R30: `lastDrop` and `nfCount` hold any value. -/
theorem SenderInv.set_marks {c : Config} {x : Sender} (h : SenderInv c x) (d : DropClass) (nf : BitVec 1) :
    SenderInv c { x with lastDrop := d, nfCount := nf } := by
  obtain ⟨hlen, hslots, hcount, hsession⟩ := h
  refine ⟨hlen, hslots, hcount, ?_⟩
  rcases x with ⟨state, _⟩
  cases state with
  | idle | awaitReq =>
    obtain ⟨hi, hst, hz⟩ := hsession
    exact ⟨hi.congr rfl rfl rfl rfl rfl, hst, hz⟩
  | sendWait =>
    obtain ⟨hst, img, ho, hrest⟩ := hsession
    exact ⟨hst, img, ho.congr rfl rfl rfl, hrest⟩
  | doneWait =>
    obtain ⟨hst, img, ho, hrest⟩ := hsession
    exact ⟨hst, img, ho.congr rfl rfl rfl, hrest⟩
  | missing =>
    obtain ⟨hi, hst⟩ := hsession
    exact ⟨hi.congr rfl rfl rfl rfl rfl, hst⟩
  | terminated =>
    obtain ⟨hst, hi | ⟨img, ho, hrest⟩⟩ := hsession
    · exact ⟨hst, .inl (hi.congr rfl rfl rfl rfl rfl)⟩
    · exact ⟨hst, .inr ⟨img, ho.congr rfl rfl rfl, hrest⟩⟩

/-- R156, R160, R157: `SendOrFinish` on a ready window leaves a legal session. -/
theorem sendOrFinish_keeps {s t : State} {img : Bytes} (hr : WindowReady s.snd img)
    (hc : CountBelowCap s.cfg.retryCap s.snd.toCount True) (h : sendOrFinish s = .ok t) :
    SenderInv s.cfg t.snd := by
  rw [sendOrFinish_eq hr.opened hr.buffered] at h
  split_ifs at h with hlt <;> cases h
  · exact hr.doneWait hc hlt
  · exact hr.sendWait hc (Int.not_lt.mp hlt)

/-- A window's new chunks, `rest` behind them, are what R51 asks of the buffer. -/
theorem windowBuffered_of_chunkSlots {x : Sender} {img : Bytes} {rest : List (Option Slot)}
    (h : x.wbuf = chunkSlots img x.windowStart.toNat (windowCount x.windowStart.toNat x.windowEnd.toInt) ++ rest) :
    WindowBuffered x img := by
  intro k hk
  rw [h]
  exact chunkSlots_getD hk

/-- R155, R156: opening a file and filling its window makes the window ready. -/
theorem fill_openFile_ready {s u : State} {img : Bytes} (hl : img.length ≤ fileSizeMax)
    (hlen : s.snd.wbuf.length = windowSize) (hslots : SlotsLegal s.snd.wbuf) (hst : s.snd.status = .none)
    (h : fill (openFile img s) = .ok u) : WindowReady u.snd img ∧ u.snd.toCount = s.snd.toCount := by
  have ho : FileOpened (openFile img s).snd img := ⟨hl, rfl, rfl, rfl⟩
  have hb : WindowBounded (openFile img s).snd img := windowBounded_of_eq hl rfl
  rw [fill_eq ho hb] at h
  cases h
  refine ⟨⟨ho.congr rfl rfl rfl, hb, windowBuffered_of_chunkSlots rfl, ?_, ?_, hst⟩, rfl⟩
  · have hcount := windowCount_le (start := (openFile img s).snd.windowStart.toNat) (n := img.length)
    rw [← hb] at hcount
    have hlen' : (openFile img s).snd.wbuf.length = windowSize := hlen
    simp only [mapS_snd, List.length_append, List.length_drop, chunkSlots, List.length_map, List.length_range]
    omega
  · exact slotsLegal_chunkSlots_append (slotsLegal_drop hslots _)

/-- R159, R160: moving the window forward and refilling it makes it ready again. -/
theorem refill_ready {s u : State} {img : Bytes} {next : SeqNo} (hr : WindowReady s.snd img)
    (hn : s.snd.windowStart.toNat < next.toNat)
    (h : refill s.snd.windowStart.toNat s.snd.windowEnd.toInt (advanceWindow next (maxSequenceOf img.length) s) = .ok u) :
    WindowReady u.snd img ∧ u.snd.windowStart = next ∧ u.snd.toCount = s.snd.toCount := by
  have hend := toInt_ofInt_bound (windowEndOf_range (start := next.toNat) hr.opened.size_le)
  rw [refill_eq hr.opened hr.buffered hn] at h
  cases h
  refine ⟨⟨hr.opened.congr rfl rfl rfl, hend, windowBuffered_of_chunkSlots (by simp only [mapS_snd, hend]; rfl), ?_, ?_,
    hr.status_eq⟩, rfl, rfl⟩
  · have hcount := windowCount_le (start := next.toNat) (n := img.length)
    simp only [mapS_snd, List.length_append, List.length_replicate, chunkSlots, List.length_map, List.length_range]
    exact Nat.add_sub_of_le hcount
  · exact slotsLegal_chunkSlots_append (slotsLegal_replicate_none _)

/-- The count of a running `S_SEND_WAIT` may be set to any value below the cap. -/
theorem SenderInv.set_count {c : Config} {x : Sender} {n : Nat} (h : SenderInv c x) (hs : x.state = .sendWait)
    (hn : CountBelowCap c.retryCap n True) : SenderInv c { x with toCount := n } := by
  obtain ⟨hlen, hslots, -, hsession⟩ := h
  refine ⟨hlen, hslots, hn.mono fun _ => trivial, ?_⟩
  rcases x with ⟨state, _⟩
  cases hs
  obtain ⟨hst, img, ho, hrest⟩ := hsession
  exact ⟨hst, img, ho.congr rfl rfl rfl, hrest⟩

/-- R165: ending a session that runs, with any status but NONE. -/
theorem SenderInv.terminate {c : Config} {x : Sender} {n : Nat} {st : EndStatus} (h : SenderInv c x)
    (hs : (x.state = .sendWait ∨ x.state = .doneWait) ∨ x.state = .missing) (hst : st ≠ .none)
    (hn : CountBelowCap c.retryCap n False) :
    SenderInv c { x with toCount := n, status := st, state := .terminated } := by
  have hwindow : WindowInitial x ∨ ∃ img, FileOpened x img ∧ WindowBounded x img :=
    hs.elim (fun hs => .inr (h.opened hs)) fun hs => .inl (h.initial (.inr hs)).1
  obtain ⟨hlen, hslots, -, -⟩ := h
  refine ⟨hlen, hslots, hn.mono nofun, hst, ?_⟩
  obtain hi | ⟨img, ho, hb⟩ := hwindow
  · exact .inl (hi.congr rfl rfl rfl rfl rfl)
  · exact .inr ⟨img, ho.congr rfl rfl rfl, .inl hb⟩

/-- R166: the defensive end of a session that sends. -/
theorem endDefensively_keeps {s : State} (hc : s.cfg.wf = true) (h : SenderInv s.cfg s.snd)
    (hs : s.snd.state = .sendWait ∨ s.snd.state = .doneWait) :
    SenderInv s.cfg (endDefensively (clearTimeouts .sender s)).snd := by
  obtain ⟨img, ho, -⟩ := h.opened hs
  obtain ⟨hlen, hslots, -, -⟩ := h
  exact ⟨hlen, hslots, countBelowCap_zero hc _, nofun, .inr ⟨img, ho.congr rfl rfl rfl, .inr ⟨rfl, rfl, rfl⟩⟩⟩

/-- R46, R151: the initial registers, idle or waiting for a request. -/
theorem senderInv_reset {c : Config} (hc : c.wf = true) {st : SState} (hst : st = .idle ∨ st = .awaitReq) :
    SenderInv c { Sender.reset with state := st } := by
  have hi : WindowInitial { Sender.reset with state := st } := ⟨rfl, rfl, rfl, rfl, rfl⟩
  refine ⟨rfl, slotsLegal_replicate_none _, countBelowCap_zero hc _, ?_⟩
  rcases hst with rfl | rfl <;> exact ⟨hi, rfl, rfl⟩

/-- R154: a request taken, the file opened and its window sent. -/
theorem requestOpened_keeps {s u t : State} {path img : Bytes} (hc : s.cfg.wf = true) (h : SenderInv s.cfg s.snd)
    (hs : s.snd.state = .awaitReq) (ho : fileOpen (clearTimeouts .sender s) path = some img)
    (hf : fill (openFile img (clearTimeouts .sender s)) = .ok u) (ht : sendOrFinish u = .ok t) :
    SenderInv s.cfg t.snd := by
  obtain ⟨-, hst⟩ := h.initial (.inl hs)
  obtain ⟨hlen, hslots, -, -⟩ := h
  obtain ⟨hready, hcount⟩ := fill_openFile_ready (s := clearTimeouts .sender s) (fileOpen_length_le ho) hlen hslots hst hf
  have hcfg : u.cfg = s.cfg := (fill_frame hf).cfg_eq
  rw [← hcfg]
  exact sendOrFinish_keeps hready (by rw [hcount, hcfg]; exact countBelowCap_zero hc _) ht

/-- The count of timeouts is no part of the window. -/
theorem WindowReady.set_count {x : Sender} {img : Bytes} (h : WindowReady x img) (n : Nat) :
    WindowReady { x with toCount := n } img :=
  ⟨h.opened.congr rfl rfl rfl, h.bounded, h.buffered, h.wbuf_length, h.slots, h.status_eq⟩

/-- R159: an ACK that moves the window: the session stays legal. -/
theorem ackAdvances_keeps {s u t : State} {next : SeqNo} {m : Int} (hc : s.cfg.wf = true)
    (h : SenderInv s.cfg s.snd) (hs : s.snd.state = .sendWait) (hn : s.snd.windowStart.toNat < next.toNat)
    (hm : readMaxSequence s = .ok m)
    (hr : refill s.snd.windowStart.toNat s.snd.windowEnd.toInt (advanceWindow next m (clearTimeouts .sender s)) = .ok u)
    (ht : sendOrFinish u = .ok t) : SenderInv s.cfg t.snd ∧ t.snd.windowStart = next := by
  obtain ⟨img, hready, -, -⟩ := h.sendWait hs
  cases readMaxSequence_eq_ok hready.opened hm
  obtain ⟨hready', hstart, hcount⟩ := refill_ready (s := clearTimeouts .sender s) (hready.set_count 0) hn hr
  have hcfg : u.cfg = s.cfg := (refill_frame hr).cfg_eq
  constructor
  · rw [← hcfg]
    exact sendOrFinish_keeps hready' (by rw [hcount, hcfg]; exact countBelowCap_zero hc _) ht
  · obtain ⟨os, st, rfl⟩ := sendOrFinish_eq_ok ht
    exact hstart

/-- R47 to R51: every step of the sender engine keeps the sender's invariant. -/
theorem SenderStep.keeps {i : Instr} {s t : State} (h : SenderStep i s t) (hc : s.cfg.wf = true)
    (hinv : SenderInv s.cfg s.snd) : SenderInv s.cfg t.snd := by
  have zero (live : Prop) : CountBelowCap s.cfg.retryCap 0 live := countBelowCap_zero hc live
  have hcount := hinv.count
  cases h with
  | drop c => exact hinv.set_marks c s.snd.nfCount
  | requestMissing hs =>
    obtain ⟨hi, hst⟩ := hinv.initial (.inl hs)
    obtain ⟨hlen, hslots, -, -⟩ := hinv
    exact ⟨hlen, hslots, zero _, hi.congr rfl rfl rfl rfl rfl, hst⟩
  | requestOpened path img u t hs ho hf ht => exact requestOpened_keeps hc hinv hs ho hf ht
  | ackAdvances next m u t hs hn hm hr ht => exact (ackAdvances_keeps hc hinv hs hn hm hr ht).1
  | ackResends t hs ht =>
    obtain ⟨os, rfl⟩ := transmitWindow_eq_ok ht
    exact hinv.set_count hs (zero _)
  | endsDefensively hs => exact endDefensively_keeps hc hinv hs
  | doneAcked hs => exact hinv.terminate (.inl (.inr hs)) nofun (zero _)
  | missingAcked hs => exact hinv.terminate (.inr hs) nofun (zero _)
  | timeoutExhausts hs => exact hinv.terminate (.inl (.inl hs)) nofun (hcount.succ hs nofun)
  | timeoutResends t hs hcap ht =>
    obtain ⟨os, rfl⟩ := transmitWindow_eq_ok ht
    exact hinv.set_count hs (hcount.succ hs fun _ => hcap)
  | timeoutAfterDone hs => exact hinv.terminate (.inl (.inr hs)) nofun (hcount.mono nofun)
  | timeoutMissingAgain hs => exact hinv.set_marks s.snd.lastDrop 1#1
  | timeoutMissingEnds hs => exact hinv.terminate (.inr hs) nofun (hcount.mono nofun)
  | serveBusy => exact hinv
  | serveStarts => exact senderInv_reset hc (.inr rfl)

end Sys2Proof.Machine

end

section

namespace Sys2Proof.Machine

open Sys2Proof

/-! ## The receiver's steps keep its invariant (R31 to R38, R52) -/

/-- R35, R211: no valid slot stands for 2^32 - 1, so a flush cannot carry the cursor past it. -/
def SlotsBelowMax (x : Receiver) : Prop :=
  ∀ (k : Nat) (slot : Slot), x.rb[k]? = some (some slot) → x.writeCursor.toNat + k < 2 ^ 32 - 1

theorem flushed_slotsBelowMax {s : State} (h : SlotsBelowMax s.rcv) : SlotsBelowMax (flushed s).rcv := by
  intro k slot hk
  have := h _ slot (flushed_get hk)
  rw [flushed_writeCursor h]
  omega

theorem acceptData_slotsBelowMax {s : State} {seq : SeqNo} {payload : Bytes} (h : SlotsBelowMax s.rcv) :
    SlotsBelowMax (acceptData seq payload s).rcv := by
  obtain ⟨c, he⟩ | ⟨hmax, hle, he⟩ := acceptData_cases seq payload s <;> rw [he]
  · exact h
  · intro k slot hk
    simp only [mapR_rcv, List.getElem?_set] at hk ⊢
    split_ifs at hk with hkey
    · omega
    · exact h k slot hk

/-- R9: a batch counts at least one. -/
theorem Config.wf_rxBatch_pos {c : Config} (hc : c.wf = true) : 0 < c.rxBatch := by
  simp only [Config.wf, Bool.and_eq_true, decide_eq_true_eq] at hc
  exact hc.1.1

/-- R222: acknowledging in a session keeps the registers legal. -/
theorem acknowledged_keeps {s : State} (hc : s.cfg.wf = true) (hs : s.rcv.state = .receiving)
    (h : ReceiverInv s.cfg s.rcv) : ReceiverInv s.cfg (acknowledged s).rcv := by
  obtain ⟨hlen, hslots, hpath, -, hcount, hmax, hsession⟩ := h
  refine ⟨(flushed_rb_length s).trans hlen, slotsLegal_flushed hslots, hpath, Config.wf_rxBatch_pos hc, hcount,
    flushed_slotsBelowMax hmax, ?_⟩
  have hs' : (acknowledged s).rcv.state = .receiving := hs
  rw [hs] at hsession
  rw [hs']
  exact hsession

/-- R220: the batch epilogue keeps the registers legal. -/
theorem batchCounted_keeps {s : State} (hc : s.cfg.wf = true) (h : ReceiverInv s.cfg s.rcv) :
    ReceiverInv s.cfg (batchCounted s).rcv := by
  unfold batchCounted
  split_ifs with hs hfull
  · exact acknowledged_keeps hc hs h
  · obtain ⟨hlen, hslots, hpath, hbc, hcount, hmax, hsession⟩ := h
    refine ⟨hlen, hslots, hpath, Nat.lt_of_le_of_ne hbc hfull, hcount, hmax, ?_⟩
    rw [hs] at hsession
    simp only [hs]
    exact hsession
  · exact h

/-- A running session has no status and holds its path. -/
theorem ReceiverInv.running {c : Config} {x : Receiver} (h : ReceiverInv c x)
    (hs : x.state = .reqSent ∨ x.state = .receiving) : x.status = .none ∧ x.path.isSome = true := by
  obtain ⟨-, -, -, -, -, -, hsession⟩ := h
  rcases hs with hs | hs <;> rw [hs] at hsession
  · exact ⟨hsession.1, hsession.2.2.2⟩
  · exact hsession

/-- R206, R210: the receiver as `AcceptData` finds it. -/
theorem takingData_keeps {s : State} (hc : s.cfg.wf = true) (hs : receiverActive s) (h : ReceiverInv s.cfg s.rcv) :
    ReceiverInv s.cfg (takingData s).rcv := by
  have hrunning := h.running hs
  obtain ⟨hlen, hslots, hpath, hbc, -, hmax, -⟩ := h
  exact ⟨hlen, hslots, hpath, hbc, countBelowCap_zero hc _, hmax, hrunning⟩

theorem ReceiverInv.slotsBelowMax {c : Config} {x : Receiver} (h : ReceiverInv c x) : SlotsBelowMax x := by
  obtain ⟨-, -, -, -, -, hmax, -⟩ := h
  exact hmax

/-- R211: a chunk in range keeps the registers legal. -/
theorem acceptData_keeps {s : State} {c : Config} {seq : SeqNo} {payload : Bytes} (hp : payload.length ≤ chunkSize)
    (hs : s.rcv.state = .receiving) (h : ReceiverInv c s.rcv) : ReceiverInv c (acceptData seq payload s).rcv := by
  have hmax' := acceptData_slotsBelowMax (seq := seq) (payload := payload) h.slotsBelowMax
  obtain ⟨d, he⟩ | ⟨-, -, he⟩ := acceptData_cases seq payload s <;> rw [he] at hmax' ⊢
  · exact h
  · have hrunning := h.running (.inr hs)
    obtain ⟨hlen, hslots, hpath, hbc, hcount, -, -⟩ := h
    refine ⟨(List.length_set ..).trans hlen, slotsLegal_set hslots hp, hpath, hbc, hcount, hmax', ?_⟩
    simp only [mapR_rcv, hs]
    exact hrunning

/-- R29, R38: the cap bounds the count that one more timeout makes. -/
theorem ReceiverInv.count {c : Config} {x : Receiver} (h : ReceiverInv c x)
    (hs : x.state = .reqSent ∨ x.state = .receiving) : CountBelowCap c.retryCap x.toCount True := by
  obtain ⟨-, -, -, -, hcount, -, -⟩ := h
  exact hcount.mono fun _ => hs

/-- R205, R225: one more timeout below the cap. -/
theorem countTimeoutR_keeps {s : State} (hs : receiverActive s) (h : ReceiverInv s.cfg s.rcv)
    (hcap : capReached s.cfg.retryCap (s.rcv.toCount + 1) = false) :
    ReceiverInv s.cfg (countTimeoutR s).1.rcv := by
  have hcount := h.count hs
  obtain ⟨hlen, hslots, hpath, hbc, -, hmax, hsession⟩ := h
  refine ⟨hlen, hslots, hpath, hbc, hcount.succ trivial fun _ => hcap, hmax, ?_⟩
  simp only [countTimeoutR, mapR_rcv]
  rcases hs with hs | hs <;> simp only [hs] at hsession ⊢ <;> exact hsession

/-- R46: the initial registers. -/
theorem receiverInv_reset {c : Config} (hc : c.wf = true) : ReceiverInv c (Receiver.reset c.rbDepth) := by
  refine ⟨List.length_replicate .., slotsLegal_replicate_none _, nofun, Config.wf_rxBatch_pos hc,
    countBelowCap_zero hc _, fun k slot hk => ?_, rfl, rfl, rfl, rfl⟩
  simp [Receiver.reset, List.getElem?_replicate] at hk

/-- R201: a session just started. -/
theorem fetchTaken_keeps {s : State} {path : Bytes} (hc : s.cfg.wf = true) (hp : path.length ≤ chunkSize) :
    ReceiverInv s.cfg (fetchTaken path s).rcv := by
  obtain ⟨hlen, hslots, -, hbc, -, hmax, -⟩ := receiverInv_reset hc
  refine ⟨hlen, hslots, ?_, hbc, countBelowCap_zero hc _, hmax, rfl, rfl, rfl, rfl⟩
  rintro p ⟨⟩
  exact hp

/-- R31 to R38: every step of the receiver engine keeps the receiver's invariant. -/
theorem ReceiverStep.keeps {i : Instr} {s t : State} (h : ReceiverStep i s t) (hw : i.wf = true)
    (hc : s.cfg.wf = true) (hinv : ReceiverInv s.cfg s.rcv) : ReceiverInv s.cfg t.rcv := by
  have zero (live : Prop) : CountBelowCap s.cfg.retryCap 0 live := countBelowCap_zero hc live
  cases h with
  | drop c => exact batchCounted_keeps (s := raiseDrop .receiver c s) hc hinv
  | data seq payload hs hp =>
    have hcfg : (acceptData seq payload (takingData s)).cfg = s.cfg := (acceptData_frame seq payload _).cfg_eq
    have haccept := acceptData_keeps (seq := seq) (hp hw) rfl (takingData_keeps hc hs hinv)
    rw [← hcfg] at hc haccept ⊢
    exact batchCounted_keeps hc haccept
  | done seq st hs hst =>
    obtain ⟨hlen, hslots, hpath, hbc, -, hmax, -⟩ := hinv
    exact ⟨(flushed_rb_length _).trans hlen, fun _ _ hk => hslots _ _ (flushed_get hk), hpath, hbc, zero _,
      flushed_slotsBelowMax hmax, hst⟩
  | fileNotFound seq hs =>
    obtain ⟨hlen, hslots, hpath, hbc, -, hmax, -⟩ := hinv
    exact ⟨hlen, hslots, hpath, hbc, zero _, hmax, rfl⟩
  | timeoutExhausts hs =>
    have hcount := hinv.count hs
    obtain ⟨hlen, hslots, hpath, hbc, -, hmax, -⟩ := hinv
    exact ⟨hlen, hslots, hpath, hbc, hcount.succ trivial nofun, hmax, rfl⟩
  | timeoutRequests path hs hp hcap => exact countTimeoutR_keeps (.inl hs) hinv hcap
  | timeoutWaits hs hcap => exact countTimeoutR_keeps (.inl hs) hinv hcap
  | timeoutAcks hs hcap =>
    exact acknowledged_keeps (s := (countTimeoutR s).1) hc hs (countTimeoutR_keeps (.inr hs) hinv hcap)
  | drainEnd hs => exact acknowledged_keeps hc hs hinv
  | fetchRefused => exact hinv
  | fetchStarts path hi hs hp => exact fetchTaken_keeps hc hp

end Sys2Proof.Machine

end

section

namespace Sys2Proof.Machine

open Sys2Proof

/-! ## Decoded instructions are well-formed (R95, R97, R129) -/

/-- R129: what a datagram that decodes has passed, and what it decodes to. -/
theorem decodePacket_eq_ok {b : Bytes} {p : Packet} (h : decodePacket b = .ok p) :
    b.length ≤ maxDgram ∧ (byteAt b 0).toNat ≤ 6 ∧ p = packetFields b := by
  unfold decodePacket at h
  split_ifs at h with hshort hlong hcorrupt hop
  exact ⟨Nat.le_of_not_lt hlong, Nat.le_of_not_lt hop, (Except.ok.inj h).symm⟩

/-- R96: the instruction of a packet is well-formed where its payload is in range. -/
theorem packetInstr_wf {e : Engine} {p : Packet} {i : Instr} (hp : p.payload.length ≤ chunkSize)
    (h : packetInstr e p = some i) : i.wf = true := by
  unfold packetInstr at h
  split at h <;> cases h
  case h_1 | h_2 => exact decide_eq_true hp
  all_goals rfl

/-- R96, R100: a packet of an opcode up to 6 is an instruction. -/
theorem packetInstr_isSome {e : Engine} {p : Packet} (h : p.op.toNat ≤ 6) : packetInstr e p ≠ none := by
  unfold packetInstr
  generalize p.op.toNat = op at h
  interval_cases op <;> exact Option.some_ne_none _

/-- R76: a delivered datagram is a well-formed instruction. -/
theorem delivered_wf (e : Engine) (d : Datagram) : (delivered e d).wf = true := by
  unfold delivered
  rcases hd : decodePacket d with c | p
  · cases e <;> simp [Instr.wf, hd, Except.isOk, Except.toBool]
  · obtain ⟨hlong, hop, rfl⟩ := decodePacket_eq_ok hd
    have hpayload : (packetFields d).payload.length ≤ chunkSize := by
      simp only [packetFields, List.length_drop]
      exact Nat.sub_le_sub_right hlong hdrLen
    rcases hi : packetInstr e (packetFields d) with _ | i
    · exact absurd hi (packetInstr_isSome hop)
    · simp only [hi]
      exact packetInstr_wf hpayload hi

theorem bare_eq_ok {code : Byte} {operand : Bytes} {i j : Instr} (h : bare code operand i = .ok j) : j = i := by
  unfold bare at h
  split at h <;> cases h
  rfl

/-- Every input that is an instruction is a well-formed one. -/
theorem decode_wf {w : Input} {i : Instr} (h : decode w = .ok i) : i.wf = true := by
  unfold decode at h
  split at h
  · unfold decodeCommand at h
    split at h
    · cases bare_eq_ok h; rfl
    · cases h; rfl
    · cases h
  · unfold decodeEvent at h
    split at h
    case h_3 => cases h; rfl
    case h_4 | h_5 => cases h; exact delivered_wf _ _
    case h_9 => cases h
    all_goals cases bare_eq_ok h; rfl

/-! ## The invariant of a block -/

/-- R46 to R52: a well-formed instruction keeps the invariant. -/
theorem exec_keeps_blockInv {i : Instr} {s t : State} (hw : i.wf = true) (hinv : BlockInv s)
    (h : exec i s = .next t) : BlockInv t := by
  have hcfg : t.cfg = s.cfg := (exec_outputsAppended h).cfg_eq
  obtain ⟨hc, hsnd, hrcv⟩ := hinv
  obtain ⟨-, rfl⟩ | hs | hr := exec_cases h
  · exact ⟨hc, senderInv_reset hc (.inl rfl), receiverInv_reset hc⟩
  · exact ⟨hcfg ▸ hc, hcfg ▸ hs.keeps hc hsnd, by rw [hcfg, hs.frame.rcv_eq]; exact hrcv⟩
  · exact ⟨hcfg ▸ hc, by rw [hcfg, hr.frame.snd_eq]; exact hsnd, hcfg ▸ hr.keeps hw hc hrcv⟩

/-- Settles O48: by `SenderStep.keeps` and `ReceiverStep.keeps`, each engine's step being in the other's frame;
what the step takes decodes to a well-formed instruction. -/
theorem everyStepKeepsTheInvariant : Obligations.EveryStepKeepsTheInvariant := by
  intro s t hinv h
  unfold step takeInput at h
  rcases hinputs : s.inputs with _ | ⟨w, rest⟩ <;> simp only [hinputs] at h
  · cases h
    exact hinv
  · have hinv' : BlockInv { s with inputs := rest } := hinv
    rcases hd : decode w with e | i <;> simp only [hd] at h
    · cases e <;> cases h
      exact hinv'
    · exact exec_keeps_blockInv (decode_wf hd) hinv' h

/-- Settles O47: the reset registers meet the invariant under every legal configuration, the model's one too. -/
theorem resetMeetsTheInvariant : Obligations.ResetMeetsTheInvariant :=
  ⟨by decide, senderInv_reset (c := Config.standard) (by decide) (.inl rfl),
    receiverInv_reset (c := Config.standard) (by decide)⟩

end Sys2Proof.Machine

end

section

namespace Sys2Proof.Machine

open Sys2Proof

/-! ## The window and the cursor within a session (R47 to R49) -/

/-- Settles O52: R49's bounds are R50's `windowEnd`, and the window begins inside the file. -/
theorem windowHoldsOneToFiveChunks : Obligations.WindowHoldsOneToFiveChunks := by
  rintro s ⟨-, hsnd, -⟩ hs
  obtain ⟨img, hready, hle, -⟩ := hsnd.sendWait hs
  have hend : s.snd.windowEnd.toInt = min ((s.snd.windowStart.toNat : Int) + 4) (maxSequenceOf img.length) :=
    hready.bounded
  refine ⟨_, hready.opened.maxSequence_eq, ?_, ?_, ?_, ?_, ?_⟩
  · rw [hready.opened.maxSequence_toInt]
    exact hle
  all_goals
    simp only [windowCount, hend]
    omega

/-- R47: a step of the sender engine moves a running session's window forward, leaves it, or is R166's. -/
theorem SenderStep.windowStart_le {i : Instr} {s t : State} (h : SenderStep i s t) (hc : s.cfg.wf = true)
    (hinv : SenderInv s.cfg s.snd) (ha : senderActive s) :
    s.snd.windowStart.toNat ≤ t.snd.windowStart.toNat ∨ t.snd.status = .defensive ∧ t.snd.state = .terminated := by
  cases h with
  | requestOpened path img u t hs =>
    rw [(hinv.initial (.inl hs)).1.windowStart_eq]
    exact .inl (Nat.zero_le _)
  | ackAdvances next m u t hs hn hm hr ht =>
    rw [(ackAdvances_keeps hc hinv hs hn hm hr ht).2]
    exact .inl (Nat.le_of_lt hn)
  | ackResends t hs ht | timeoutResends t hs hcap ht =>
    obtain ⟨os, rfl⟩ := transmitWindow_eq_ok ht
    exact .inl (Nat.le_refl _)
  | endsDefensively => exact .inr ⟨rfl, rfl⟩
  | serveStarts hi hs => rcases hs with hs | hs <;> simp [senderActive, hs] at ha
  | drop | requestMissing | doneAcked | missingAcked | timeoutExhausts | timeoutAfterDone | timeoutMissingAgain
  | timeoutMissingEnds | serveBusy => exact .inl (Nat.le_refl _)

/-- Settles O53: by `SenderStep.windowStart_le`; the receiver's steps leave the sender's registers. -/
theorem windowStartNeverDecreases : Obligations.WindowStartNeverDecreases := by
  rintro i s t ⟨hc, hsnd, -⟩ h hreset ha
  obtain ⟨hi, -⟩ | hs | hr := exec_cases h
  · exact absurd hi hreset
  · exact hs.windowStart_le hc hsnd ha
  · rw [hr.frame.snd_eq]
    exact .inl (Nat.le_refl _)

/-- R48, R223: a flush moves the cursor forward. -/
theorem flushed_writeCursor_le {s : State} (h : SlotsBelowMax s.rcv) :
    s.rcv.writeCursor.toNat ≤ (flushed s).rcv.writeCursor.toNat := by
  rw [flushed_writeCursor h]
  exact Nat.le_add_right _ _

/-- R48, R220: so does the batch epilogue, or it leaves it. -/
theorem batchCounted_writeCursor_le {s : State} (h : SlotsBelowMax s.rcv) :
    s.rcv.writeCursor.toNat ≤ (batchCounted s).rcv.writeCursor.toNat := by
  unfold batchCounted
  split_ifs
  · exact flushed_writeCursor_le h
  · exact Nat.le_refl _
  · exact Nat.le_refl _

/-- R211: taking a chunk leaves the cursor. -/
theorem acceptData_writeCursor (seq : SeqNo) (payload : Bytes) (s : State) :
    (acceptData seq payload s).rcv.writeCursor = s.rcv.writeCursor := by
  obtain ⟨c, he⟩ | ⟨-, -, he⟩ := acceptData_cases seq payload s <;> rw [he]
  · rfl
  · rfl

/-- R48: a step of the receiver engine moves a running session's cursor forward or leaves it. -/
theorem ReceiverStep.writeCursor_le {i : Instr} {s t : State} (h : ReceiverStep i s t) (hmax : SlotsBelowMax s.rcv)
    (ha : receiverActive s) : s.rcv.writeCursor.toNat ≤ t.rcv.writeCursor.toNat := by
  cases h with
  | drop c => exact batchCounted_writeCursor_le (s := raiseDrop .receiver c s) hmax
  | data seq payload =>
    have h := batchCounted_writeCursor_le (acceptData_slotsBelowMax (s := takingData s) (seq := seq)
      (payload := payload) hmax)
    rw [acceptData_writeCursor] at h
    exact h
  | done seq =>
    exact flushed_writeCursor_le
      (s := (clearTimeouts .receiver s).output (.tx .receiver (Machine.frame 0x06#8 seq []))) hmax
  | timeoutAcks => exact flushed_writeCursor_le (s := (countTimeoutR s).1) hmax
  | drainEnd => exact flushed_writeCursor_le hmax
  | fetchStarts path hi hs => exact absurd ha hs
  | fileNotFound | timeoutExhausts | timeoutRequests | timeoutWaits | fetchRefused => exact Nat.le_refl _

/-- Settles O54: by `ReceiverStep.writeCursor_le`; the sender's steps leave the receiver's registers. -/
theorem writeCursorNeverDecreases : Obligations.WriteCursorNeverDecreases := by
  rintro i s t ⟨-, -, hrcv⟩ h hreset ha
  obtain ⟨hi, -⟩ | hs | hr := exec_cases h
  · exact absurd hi hreset
  · rw [hs.frame.rcv_eq]
  · exact hr.writeCursor_le hrcv.slotsBelowMax ha

end Sys2Proof.Machine

end

section

namespace Sys2Proof.Machine

open Sys2Proof

/-! ## The status view (R41, R42, R46) -/

/-- Settles O21: field by field; an indexed field reads a slot that reset leaves empty. -/
theorem resetStateHoldsTheResetValues : Obligations.ResetStateHoldsTheResetValues := by
  refine ⟨fun f => ?_, rfl, rfl, rfl, rfl, rfl, rfl⟩
  have hempty (n k : Nat) : slotAt (List.replicate n none) k = none := by
    rw [Option.eq_none_iff_forall_ne_some]
    intro slot hk
    simp [slotAt_eq_some, List.getElem?_replicate] at hk
  cases f with
  | rbValid k =>
    simp only [statusView, viewReset, State.reset, Receiver.reset, List.getElem?_replicate]
    by_cases hk : k < Config.standard.rbDepth <;> simp [hk]
  | wbufLen k | wbufData k | rbLen k | rbData k =>
    simp only [statusView, viewReset, State.reset, Sender.reset, Receiver.reset, slotLenView, slotDataView, hempty,
      Option.map_none]
  | _ => rfl

/-! Legal values (R42). -/

theorem SState.code_le (st : SState) : st.code.toNat ≤ 5 := by cases st <;> decide
theorem RState.code_le (st : RState) : st.code.toNat ≤ 5 := by cases st <;> decide
theorem EndStatus.code_le (st : EndStatus) : st.code.toNat ≤ 8 := by cases st <;> decide
theorem dropCode_le (c : DropClass) : (dropCode c).toNat ≤ 9 := by cases c <;> decide

/-- R24, R25: the window's end, whatever the session state. -/
theorem SenderInv.windowEnd_range {c : Config} {x : Sender} (h : SenderInv c x) :
    -1 ≤ x.windowEnd.toInt ∧ x.windowEnd.toInt ≤ 2 ^ 32 - 2 := by
  obtain hi | ⟨img, ho, hb | he⟩ := h.window
  · rw [hi.windowEnd_eq]
    decide
  · rw [hb]
    exact windowEndOf_range ho.size_le
  · rw [he]
    decide

/-- R25, R26: the registers of the open file, whatever the session state: all three hold the file's values or
none holds one. -/
theorem SenderInv.file_cases {c : Config} {x : Sender} (h : SenderInv c x) :
    (x.maxSequence = none ∧ x.fileSize = none ∧ x.file = none) ∨ ∃ img, FileOpened x img := by
  obtain hi | ⟨img, ho, -⟩ := h.window
  · exact .inl ⟨hi.maxSequence_eq, hi.fileSize_eq, hi.file_eq⟩
  · exact .inr ⟨img, ho⟩

theorem FileOpened.fileSize_toNat {x : Sender} {img : Bytes} (h : FileOpened x img) :
    (BitVec.ofNat 42 img.length).toNat = img.length := by
  rw [BitVec.toNat_ofNat]
  exact Nat.mod_eq_of_lt (Nat.lt_of_le_of_lt h.size_le (by decide))

/-- R29, R38: a count in range reads a legal value of either count field. -/
theorem CountBelowCap.legal {c : Config} {n : Nat} {live : Prop} (h : CountBelowCap c.retryCap n live) :
    viewLegalNum .sToCount c n = true ∧ viewLegalNum .rToCount c n = true := by
  unfold CountBelowCap at h
  unfold viewLegalNum
  rcases hcap : c.retryCap with _ | m <;> simp only [hcap] at h ⊢
  · simp
  · simpa using h.1

/-- R28, R36: a legal slot's length and bytes, as the view shows them. -/
theorem slotViews_range {slots : List (Option Slot)} {k : Nat} {v : ViewValue} (h : SlotsLegal slots) :
    (slotLenView slots k = some v → ∃ n : Nat, v = .num n ∧ n ≤ chunkSize) ∧
      (slotDataView slots k = some v → ∃ b, v = .bytes b ∧ b.length ≤ chunkSize) := by
  unfold slotLenView slotDataView
  rcases hk : slotAt slots k with _ | slot
  · simp
  · obtain ⟨hdata, hlen⟩ := h k slot (slotAt_eq_some.mp hk)
    constructor
    · rintro ⟨⟩
      exact ⟨_, rfl, hlen ▸ hdata⟩
    · rintro ⟨⟩
      exact ⟨_, rfl, (List.length_take_le _ _).trans (hlen ▸ hdata)⟩

theorem viewLegal_num_of_le {f : ViewField} {c : Config} {n m : Nat} (hn : n ≤ m)
    (hf : viewLegalNum f c n = decide (0 ≤ (n : Int) ∧ (n : Int) ≤ (m : Int))) : viewLegal f c (.num n) = true := by
  rw [viewLegal, hf]
  exact decide_eq_true ⟨Int.natCast_nonneg n, Int.ofNat_le.mpr hn⟩

/-- Settles O50: field by field, each range from the register's width or from the invariant. -/
theorem statusViewIsLegal : Obligations.StatusViewIsLegal := by
  rintro s f v ⟨hc, hsnd, hrcv⟩ h
  obtain ⟨-, hwbuf, hsCount, -⟩ := id hsnd
  obtain ⟨-, hrb, hpath, hbc, hrCount, -, -⟩ := hrcv
  have hfile := hsnd.file_cases
  cases f with
  | sState => cases h; exact viewLegal_num_of_le (SState.code_le _) rfl
  | rState => cases h; exact viewLegal_num_of_le (RState.code_le _) rfl
  | sStatus => cases h; exact viewLegal_num_of_le (EndStatus.code_le _) rfl
  | rStatus => cases h; exact viewLegal_num_of_le (EndStatus.code_le _) rfl
  | sLastDrop => cases h; exact viewLegal_num_of_le (dropCode_le _) rfl
  | rLastDrop => cases h; exact viewLegal_num_of_le (dropCode_le _) rfl
  | sWindowStart => cases h; exact viewLegal_num_of_le (Nat.le_pred_of_lt s.snd.windowStart.isLt) rfl
  | rWriteCursor => cases h; exact viewLegal_num_of_le (Nat.le_pred_of_lt s.rcv.writeCursor.isLt) rfl
  | sNfCount => cases h; exact viewLegal_num_of_le (Nat.le_pred_of_lt s.snd.nfCount.isLt) rfl
  | rReqCount => cases h; exact viewLegal_num_of_le (Nat.le_pred_of_lt s.rcv.reqCount.isLt) rfl
  | sWindowEnd => cases h; exact decide_eq_true hsnd.windowEnd_range
  | sMaxSequence =>
    obtain ⟨hm, -⟩ | ⟨img, ho⟩ := hfile
    · simp [statusView, hm] at h
    · simp only [statusView, ho.maxSequence_eq, Option.map_some, ho.maxSequence_toInt] at h
      cases h
      exact decide_eq_true (maxSequenceOf_range ho.size_le)
  | sFileSize =>
    obtain ⟨-, hz, -⟩ | ⟨img, ho⟩ := hfile
    · simp [statusView, hz] at h
    · simp only [statusView, ho.fileSize_eq, Option.map_some, ho.fileSize_toNat] at h
      cases h
      exact viewLegal_num_of_le ho.size_le rfl
  | sFile =>
    obtain ⟨-, -, hf⟩ | ⟨img, ho⟩ := hfile
    · simp [statusView, hf] at h
    · simp only [statusView, ho.file_eq, Option.map_some] at h
      cases h
      exact decide_eq_true ho.size_le
  | sToCount => cases h; exact hsCount.legal.1
  | rToCount => cases h; exact hrCount.legal.2
  | rBc => cases h; exact viewLegal_num_of_le (Nat.le_of_lt hbc) rfl
  | rbValid k =>
    obtain ⟨slot, -, rfl⟩ := Option.map_eq_some_iff.mp h
    cases slot <;> rfl
  | rPath =>
    obtain ⟨p, hp, rfl⟩ := Option.map_eq_some_iff.mp h
    exact decide_eq_true (hpath p hp)
  | wbufLen k =>
    obtain ⟨n, rfl, hn⟩ := (slotViews_range hwbuf).1 h
    exact viewLegal_num_of_le hn rfl
  | rbLen k =>
    obtain ⟨n, rfl, hn⟩ := (slotViews_range hrb).1 h
    exact viewLegal_num_of_le hn rfl
  | wbufData k =>
    obtain ⟨b, rfl, hb⟩ := (slotViews_range hwbuf).2 h
    exact decide_eq_true hb
  | rbData k =>
    obtain ⟨b, rfl, hb⟩ := (slotViews_range hrb).2 h
    exact decide_eq_true hb

/-! The view shows every register (R41). -/

/-- R21: a code names one state. -/
theorem SState.code_injective : Function.Injective SState.code :=
  Function.LeftInverse.injective
    (g := fun c => [SState.idle, .awaitReq, .sendWait, .doneWait, .missing, .terminated].getD c.toNat .idle)
    fun st => by cases st <;> rfl

/-- R31. -/
theorem RState.code_injective : Function.Injective RState.code :=
  Function.LeftInverse.injective
    (g := fun c => [RState.idle, .reqSent, .receiving, .flushedOnDone, .abortedOnMissing, .failed].getD c.toNat .idle)
    fun st => by cases st <;> rfl

/-- R257. -/
theorem EndStatus.code_injective : Function.Injective EndStatus.code :=
  Function.LeftInverse.injective
    (g := fun c => [EndStatus.none, .success, .doneUnacked, .missingAcked, .missingUnacked, .defensive, .retryExhausted,
      .incomplete, .fileMissing].getD c.toNat .none)
    fun st => by cases st <;> rfl

/-- R250. -/
theorem dropCode_injective : Function.Injective dropCode :=
  Function.LeftInverse.injective
    (g := fun c => [DropClass.none, .short, .long, .corrupt, .badOpcode, .badLength, .badPayload, .ignored, .capacity,
      .duplicate].getD c.toNat .none)
    fun c => by cases c <;> rfl

/-- Two legal slots that the view shows alike are the same slot. -/
theorem slot_eq_of_view {a b : Slot} (ha : SlotLegal a) (hb : SlotLegal b) (hlen : a.len = b.len)
    (hbytes : a.bytes = b.bytes) : a = b := by
  obtain ⟨-, hla⟩ := ha
  obtain ⟨-, hlb⟩ := hb
  unfold Slot.bytes at hbytes
  rw [hla, hlb, List.take_length, List.take_length] at hbytes
  cases a
  cases b
  exact congrArg₂ Slot.mk hlen hbytes

/-- Two legal buffers of the same number of slots that the view shows alike hold the same. -/
theorem slots_eq_of_views {a b : List (Option Slot)} (ha : SlotsLegal a) (hb : SlotsLegal b)
    (hsize : a.length = b.length) (hlen : ∀ k, slotLenView a k = slotLenView b k)
    (hdata : ∀ k, slotDataView a k = slotDataView b k) : a = b := by
  have hslot (k : Nat) : slotAt a k = slotAt b k := by
    have hl := hlen k
    have hd := hdata k
    unfold slotLenView at hl
    unfold slotDataView at hd
    rcases hka : slotAt a k with _ | x <;> rcases hkb : slotAt b k with _ | y <;>
      simp only [hka, hkb, Option.map_none, Option.map_some, Option.some.injEq, ViewValue.num.injEq,
        ViewValue.bytes.injEq, reduceCtorEq] at hl hd
    · rfl
    · rw [slot_eq_of_view (ha k x (slotAt_eq_some.mp hka)) (hb k y (slotAt_eq_some.mp hkb))
        (BitVec.eq_of_toNat_eq (Int.ofNat_inj.mp hl)) hd]
  refine List.ext_getElem hsize fun k h1 h2 => ?_
  have hk := hslot k
  unfold slotAt at hk
  rwa [List.getD_eq_getElem _ _ h1, List.getD_eq_getElem _ _ h2] at hk

/-- A number field shown alike reads the same number. -/
theorem num_inj {n m : Nat} (h : some (ViewValue.num n) = some (.num m)) : n = m := by
  cases h
  rfl

theorem sender_ext {x y : Sender} (hstate : x.state = y.state) (hstatus : x.status = y.status)
    (hstart : x.windowStart = y.windowStart) (hend : x.windowEnd = y.windowEnd)
    (hmax : x.maxSequence = y.maxSequence) (hsize : x.fileSize = y.fileSize) (hfile : x.file = y.file)
    (hwbuf : x.wbuf = y.wbuf) (hnf : x.nfCount = y.nfCount) (hto : x.toCount = y.toCount)
    (hdrop : x.lastDrop = y.lastDrop) : x = y := by
  cases x
  cases y
  simp only at *
  subst_vars
  rfl

theorem receiver_ext {x y : Receiver} (hstate : x.state = y.state) (hstatus : x.status = y.status)
    (hpath : x.path = y.path) (hreq : x.reqCount = y.reqCount) (hcursor : x.writeCursor = y.writeCursor)
    (hrb : x.rb = y.rb) (hbc : x.bc = y.bc) (hto : x.toCount = y.toCount) (hdrop : x.lastDrop = y.lastDrop) :
    x = y := by
  cases x
  cases y
  simp only at *
  subst_vars
  rfl

/-- R41: the view shows the sender's registers. -/
theorem sender_eq_of_view {s t : State} (hs : SenderInv s.cfg s.snd) (ht : SenderInv t.cfg t.snd)
    (view : ∀ f : ViewField, statusView f s = statusView f t) : s.snd = t.snd := by
  obtain ⟨hlen, hslots, -, -⟩ := hs
  obtain ⟨hlen', hslots', -, -⟩ := ht
  apply sender_ext
  · exact SState.code_injective (BitVec.eq_of_toNat_eq (num_inj (view .sState)))
  · exact EndStatus.code_injective (BitVec.eq_of_toNat_eq (num_inj (view .sStatus)))
  · exact BitVec.eq_of_toNat_eq (num_inj (view .sWindowStart))
  · exact BitVec.eq_of_toInt_eq (ViewValue.num.inj (Option.some.inj (view .sWindowEnd)))
  · exact Option.map_injective (fun _ _ h => BitVec.eq_of_toInt_eq (ViewValue.num.inj h)) (view .sMaxSequence)
  · exact Option.map_injective (fun _ _ h => BitVec.eq_of_toNat_eq (num_inj (congrArg some h))) (view .sFileSize)
  · exact Option.map_injective (fun _ _ h => ViewValue.bytes.inj h) (view .sFile)
  · exact slots_eq_of_views hslots hslots' (hlen.trans hlen'.symm) (fun k => view (.wbufLen k))
      fun k => view (.wbufData k)
  · exact BitVec.eq_of_toNat_eq (num_inj (view .sNfCount))
  · exact num_inj (view .sToCount)
  · exact dropCode_injective (BitVec.eq_of_toNat_eq (num_inj (view .sLastDrop)))

/-- R41: `valid` is shown for exactly the slots there are. -/
theorem rb_length_le_of_view {s t : State} (view : ∀ k, statusView (.rbValid k) s = statusView (.rbValid k) t) :
    t.rcv.rb.length ≤ s.rcv.rb.length := by
  have h := view s.rcv.rb.length
  simp only [statusView, List.getElem?_eq_none (Nat.le_refl _), Option.map_none] at h
  exact List.getElem?_eq_none_iff.mp (Option.map_eq_none_iff.mp h.symm)

/-- R41: the view shows the receiver's registers. -/
theorem receiver_eq_of_view {s t : State} (hs : ReceiverInv s.cfg s.rcv) (ht : ReceiverInv t.cfg t.rcv)
    (view : ∀ f : ViewField, statusView f s = statusView f t) : s.rcv = t.rcv := by
  obtain ⟨-, hslots, -⟩ := hs
  obtain ⟨-, hslots', -⟩ := ht
  have hsize : s.rcv.rb.length = t.rcv.rb.length :=
    Nat.le_antisymm (rb_length_le_of_view fun k => (view (.rbValid k)).symm)
      (rb_length_le_of_view fun k => view (.rbValid k))
  apply receiver_ext
  · exact RState.code_injective (BitVec.eq_of_toNat_eq (num_inj (view .rState)))
  · exact EndStatus.code_injective (BitVec.eq_of_toNat_eq (num_inj (view .rStatus)))
  · exact Option.map_injective (fun _ _ h => ViewValue.bytes.inj h) (view .rPath)
  · exact BitVec.eq_of_toNat_eq (num_inj (view .rReqCount))
  · exact BitVec.eq_of_toNat_eq (num_inj (view .rWriteCursor))
  · exact slots_eq_of_views hslots hslots' hsize (fun k => view (.rbLen k)) fun k => view (.rbData k)
  · exact num_inj (view .rBc)
  · exact num_inj (view .rToCount)
  · exact dropCode_injective (BitVec.eq_of_toNat_eq (num_inj (view .rLastDrop)))

/-- Settles O51: each register is read back from its own field. -/
theorem statusViewShowsEveryRegister : Obligations.StatusViewShowsEveryRegister := by
  rintro s t ⟨-, hsSnd, hsRcv⟩ ⟨-, htSnd, htRcv⟩ view
  exact ⟨sender_eq_of_view hsSnd htSnd view, receiver_eq_of_view hsRcv htRcv view⟩

end Sys2Proof.Machine

end

section

namespace Sys2Proof.Machine

open Sys2Proof

/-! ## The engines share no state (R73, R134)

A step of engine `e` commutes with replacing everything it may not read: the other engine's registers, the waiting
inputs and the outputs of earlier steps. -/

/-- R73: engine `e` with the parameters of `s`, in the place of `o`: the other engine and the waiting inputs are
those of `o`, and what `s` has emitted comes after the outputs of `o`. -/
def inPlaceOf (e : Engine) (o s : State) : State :=
  match e with
  | .sender => { s with rcv := o.rcv, inputs := o.inputs, out := o.out ++ s.out }
  | .receiver => { s with snd := o.snd, inputs := o.inputs, out := o.out ++ s.out }

/-- R73: a procedure of engine `e` answers the same wherever the engine stands. -/
def RunsAlone (e : Engine) (r : State → Res State) : Prop :=
  ∀ o s, r (inPlaceOf e o s) = (r s).map (inPlaceOf e o)

variable (o s : State)

@[simp] theorem inPlaceOf_sender_snd : (inPlaceOf .sender o s).snd = s.snd := rfl
@[simp] theorem inPlaceOf_receiver_cfg : (inPlaceOf .receiver o s).cfg = s.cfg := rfl
@[simp] theorem inPlaceOf_receiver_rcv : (inPlaceOf .receiver o s).rcv = s.rcv := rfl

/-! The shared operations (R14 to R16, R72): a write or an output is the engine's own. -/

@[simp] theorem mapS_inPlaceOf (f : Sender → Sender) :
    (inPlaceOf .sender o s).mapS f = inPlaceOf .sender o (s.mapS f) := rfl

@[simp] theorem mapR_inPlaceOf (f : Receiver → Receiver) :
    (inPlaceOf .receiver o s).mapR f = inPlaceOf .receiver o (s.mapR f) := rfl

@[simp] theorem outputs_inPlaceOf (e : Engine) (os : List Output) :
    (inPlaceOf e o s).outputs os = inPlaceOf e o (s.outputs os) := by
  cases e <;> simp [inPlaceOf, State.outputs]

@[simp] theorem output_inPlaceOf (e : Engine) (a : Output) : (inPlaceOf e o s).output a = inPlaceOf e o (s.output a) :=
  outputs_inPlaceOf o s e [a]

@[simp] theorem respond_inPlaceOf (e : Engine) (c : CmdCode) :
    respond c (inPlaceOf e o s) = inPlaceOf e o (respond c s) :=
  output_inPlaceOf o s e _

@[simp] theorem raiseDrop_inPlaceOf (e : Engine) (c : DropClass) :
    raiseDrop e c (inPlaceOf e o s) = inPlaceOf e o (raiseDrop e c s) := by
  cases e <;> rfl

@[simp] theorem clearTimeouts_inPlaceOf (e : Engine) :
    clearTimeouts e (inPlaceOf e o s) = inPlaceOf e o (clearTimeouts e s) := by
  cases e <;> rfl

@[simp] theorem terminateS_inPlaceOf (st : EndStatus) :
    terminateS st (inPlaceOf .sender o s) = inPlaceOf .sender o (terminateS st s) := by
  simp [terminateS]

@[simp] theorem terminateR_inPlaceOf (st : EndStatus) (r : RState) :
    terminateR st r (inPlaceOf .receiver o s) = inPlaceOf .receiver o (terminateR st r s) := by
  simp [terminateR]

theorem emitPacket_inPlaceOf (e : Engine) (op : Byte) (seq : Nat) (payload : Bytes) :
    emitPacket e op seq payload (inPlaceOf e o s) = (emitPacket e op seq payload s).map (inPlaceOf e o) := by
  unfold emitPacket
  split <;> simp [Except.map]

/-! The sender's procedures and handlers (R150 to R168). -/

theorem fill_inPlaceOf : fill (inPlaceOf .sender o s) = (fill s).map (inPlaceOf .sender o) := by
  have hread : readChunk (inPlaceOf .sender o s) = readChunk s := rfl
  simp only [fill, hread, inPlaceOf_sender_snd]
  split <;> rfl

theorem refill_inPlaceOf (a : Nat) (b : Int) :
    refill a b (inPlaceOf .sender o s) = (refill a b s).map (inPlaceOf .sender o) := by
  have hslot : refillSlot a b (inPlaceOf .sender o s) = refillSlot a b s := rfl
  simp only [refill, hslot, inPlaceOf_sender_snd]
  split <;> rfl

theorem transmitWindow_inPlaceOf :
    transmitWindow (inPlaceOf .sender o s) = (transmitWindow s).map (inPlaceOf .sender o) := by
  have hpacket : windowPacket (inPlaceOf .sender o s) = windowPacket s := rfl
  simp only [transmitWindow, hpacket, inPlaceOf_sender_snd]
  split <;> simp [Except.map]

theorem sendOrFinish_inPlaceOf :
    sendOrFinish (inPlaceOf .sender o s) = (sendOrFinish s).map (inPlaceOf .sender o) := by
  have hmax : readMaxSequence (inPlaceOf .sender o s) = readMaxSequence s := rfl
  simp only [sendOrFinish, hmax, inPlaceOf_sender_snd, emitPacket_inPlaceOf, transmitWindow_inPlaceOf]
  split
  · rfl
  · split_ifs
    · cases emitPacket .sender 0x05#8 s.snd.windowStart.toNat [] s <;> rfl
    · cases transmitWindow s <;> rfl

theorem takeAck_inPlaceOf (next : SeqNo) :
    takeAck next (inPlaceOf .sender o s) = (takeAck next s).map (inPlaceOf .sender o) := by
  have hmax : readMaxSequence (inPlaceOf .sender o s) = readMaxSequence s := rfl
  have hadvance (m : Int) :
      advanceWindow next m (inPlaceOf .sender o s) = inPlaceOf .sender o (advanceWindow next m s) := rfl
  simp only [takeAck, hmax, hadvance, inPlaceOf_sender_snd, refill_inPlaceOf, transmitWindow_inPlaceOf]
  split_ifs
  · split
    · rfl
    · next m _ =>
      cases refill s.snd.windowStart.toNat s.snd.windowEnd.toInt (advanceWindow next m s) with
      | error e => rfl
      | ok u => exact sendOrFinish_inPlaceOf o u
  · rfl

theorem takeRequest_inPlaceOf (path : Bytes) :
    takeRequest path (inPlaceOf .sender o s) = (takeRequest path s).map (inPlaceOf .sender o) := by
  have hfile : fileOpen (inPlaceOf .sender o s) path = fileOpen s path := rfl
  have hopen (img : Bytes) : openFile img (inPlaceOf .sender o s) = inPlaceOf .sender o (openFile img s) := rfl
  simp only [takeRequest, hfile, hopen, emitPacket_inPlaceOf, fill_inPlaceOf]
  split
  · cases emitPacket .sender 0x03#8 0 [] s <;> rfl
  · next img _ =>
    cases fill (openFile img s) with
    | error e => rfl
    | ok u => exact sendOrFinish_inPlaceOf o u

theorem endDefensively_inPlaceOf :
    endDefensively (inPlaceOf .sender o s) = inPlaceOf .sender o (endDefensively s) := by
  simp [endDefensively]

theorem sTakeFileRequest_runsAlone (path : Bytes) : RunsAlone .sender (sTakeFileRequest path) := by
  intro o s
  simp only [sTakeFileRequest, inPlaceOf_sender_snd, clearTimeouts_inPlaceOf, takeRequest_inPlaceOf, ignoreS,
    raiseDrop_inPlaceOf]
  split <;> rfl

theorem sTakeAck_runsAlone (next : SeqNo) : RunsAlone .sender (sTakeAck next) := by
  intro o s
  simp only [sTakeAck, inPlaceOf_sender_snd, clearTimeouts_inPlaceOf, takeAck_inPlaceOf, ignoreS, raiseDrop_inPlaceOf]
  split <;> rfl

theorem sTakeDoneAck_runsAlone : RunsAlone .sender sTakeDoneAck := by
  intro o s
  simp only [sTakeDoneAck, inPlaceOf_sender_snd, clearTimeouts_inPlaceOf, endDefensively_inPlaceOf,
    terminateS_inPlaceOf, ignoreS, raiseDrop_inPlaceOf]
  split <;> rfl

theorem sTakeFileNotFoundAck_runsAlone : RunsAlone .sender sTakeFileNotFoundAck := by
  intro o s
  simp only [sTakeFileNotFoundAck, inPlaceOf_sender_snd, clearTimeouts_inPlaceOf, endDefensively_inPlaceOf,
    terminateS_inPlaceOf, ignoreS, raiseDrop_inPlaceOf]
  split <;> rfl

theorem sTakeUnexpected_runsAlone : RunsAlone .sender sTakeUnexpected := fun _ _ => rfl

theorem sReceive_runsAlone (d : Datagram) : RunsAlone .sender (sReceive d) := by
  intro o s
  unfold sReceive
  split
  · rfl
  · split
    · exact sTakeFileRequest_runsAlone _ o s
    · exact sTakeAck_runsAlone _ o s
    · exact sTakeFileNotFoundAck_runsAlone o s
    · exact sTakeDoneAck_runsAlone o s
    · rfl

theorem sTimeout_runsAlone : RunsAlone .sender sTimeout := by
  intro o s
  have hcount : (countTimeoutS (inPlaceOf .sender o s)).1 = inPlaceOf .sender o (countTimeoutS s).1 := rfl
  have hcap : (countTimeoutS (inPlaceOf .sender o s)).2 = (countTimeoutS s).2 := rfl
  simp only [sTimeout, timeoutSendWait, timeoutMissing, hcount, hcap, inPlaceOf_sender_snd, transmitWindow_inPlaceOf,
    emitPacket_inPlaceOf, terminateS_inPlaceOf]
  split
  · split_ifs <;> rfl
  · rfl
  · split_ifs
    · cases emitPacket .sender 0x03#8 0 [] s <;> rfl
    · rfl
  all_goals rfl

theorem sServe_runsAlone : RunsAlone .sender sServe := by
  intro o s
  simp only [sServe, inPlaceOf_sender_snd, mapS_inPlaceOf, respond_inPlaceOf]
  split <;> rfl

/-! The receiver's procedures and handlers (R200 to R226). -/

theorem sendRequest_inPlaceOf :
    sendRequest (inPlaceOf .receiver o s) = (sendRequest s).map (inPlaceOf .receiver o) := by
  simp only [sendRequest, inPlaceOf_receiver_rcv, emitPacket_inPlaceOf]
  split <;> rfl

@[simp] theorem flushed_inPlaceOf : flushed (inPlaceOf .receiver o s) = inPlaceOf .receiver o (flushed s) := by
  simp [flushed, inPlaceOf]

@[simp] theorem acknowledged_inPlaceOf :
    acknowledged (inPlaceOf .receiver o s) = inPlaceOf .receiver o (acknowledged s) := by
  simp [acknowledged, flushed, inPlaceOf]

theorem batchCounted_inPlaceOf :
    batchCounted (inPlaceOf .receiver o s) = inPlaceOf .receiver o (batchCounted s) := by
  simp only [batchCounted, inPlaceOf_receiver_rcv, inPlaceOf_receiver_cfg, acknowledged_inPlaceOf]
  split_ifs <;> rfl

theorem thenBatchCount_inPlaceOf (r : Res State) :
    thenBatchCount (r.map (inPlaceOf .receiver o)) = (thenBatchCount r).map (inPlaceOf .receiver o) := by
  cases r with
  | error e => rfl
  | ok s => simp only [Except.map, thenBatchCount, batchCount_eq, batchCounted_inPlaceOf]

theorem acceptData_inPlaceOf (seq : SeqNo) (payload : Bytes) :
    acceptData seq payload (inPlaceOf .receiver o s) = inPlaceOf .receiver o (acceptData seq payload s) := by
  simp only [acceptData, inPlaceOf_receiver_rcv, inPlaceOf_receiver_cfg, raiseDrop_inPlaceOf, mapR_inPlaceOf]
  split_ifs <;> rfl

theorem rTakeData_runsAlone (seq : SeqNo) (payload : Bytes) : RunsAlone .receiver (rTakeData seq payload) := by
  intro o s
  have hdata : rHandleData seq payload (inPlaceOf .receiver o s) =
      inPlaceOf .receiver o (rHandleData seq payload s) := by
    simp only [rHandleData, inPlaceOf_receiver_rcv, clearTimeouts_inPlaceOf, mapR_inPlaceOf, acceptData_inPlaceOf,
      ignoreR, raiseDrop_inPlaceOf]
    split <;> rfl
  simp only [rTakeData, hdata]
  exact thenBatchCount_inPlaceOf o (.ok _)

theorem takeDone_inPlaceOf (seq : SeqNo) :
    takeDone seq (inPlaceOf .receiver o s) = (takeDone seq s).map (inPlaceOf .receiver o) := by
  simp only [takeDone, emitPacket_inPlaceOf, flush_eq]
  cases emitPacket .receiver 0x06#8 seq.toNat [] s with
  | error e => rfl
  | ok u => simp [Except.map]

theorem takeFileNotFound_inPlaceOf (seq : SeqNo) :
    takeFileNotFound seq (inPlaceOf .receiver o s) = (takeFileNotFound seq s).map (inPlaceOf .receiver o) := by
  simp only [takeFileNotFound, emitPacket_inPlaceOf]
  cases emitPacket .receiver 0x04#8 seq.toNat [] s with
  | error e => rfl
  | ok u => simp [Except.map]

theorem rTakeDone_runsAlone (seq : SeqNo) : RunsAlone .receiver (rTakeDone seq) := by
  intro o s
  have hdone : rHandleDone seq (inPlaceOf .receiver o s) = (rHandleDone seq s).map (inPlaceOf .receiver o) := by
    simp only [rHandleDone, inPlaceOf_receiver_rcv, clearTimeouts_inPlaceOf, takeDone_inPlaceOf, ignoreR,
      raiseDrop_inPlaceOf]
    split <;> rfl
  simp only [rTakeDone, hdone, thenBatchCount_inPlaceOf]

theorem rTakeFileNotFound_runsAlone (seq : SeqNo) : RunsAlone .receiver (rTakeFileNotFound seq) := by
  intro o s
  have hmissing : rHandleFileNotFound seq (inPlaceOf .receiver o s) =
      (rHandleFileNotFound seq s).map (inPlaceOf .receiver o) := by
    simp only [rHandleFileNotFound, inPlaceOf_receiver_rcv, clearTimeouts_inPlaceOf, takeFileNotFound_inPlaceOf,
      ignoreR, raiseDrop_inPlaceOf]
    split <;> rfl
  simp only [rTakeFileNotFound, hmissing, thenBatchCount_inPlaceOf]

theorem rTakeUnexpected_runsAlone : RunsAlone .receiver rTakeUnexpected :=
  fun o s => thenBatchCount_inPlaceOf o (.ok (ignoreR s))

theorem rReceive_runsAlone (d : Datagram) : RunsAlone .receiver (rReceive d) := by
  intro o s
  unfold rReceive
  split
  · next c _ => exact thenBatchCount_inPlaceOf o (.ok (raiseDrop .receiver c s))
  · split
    · exact rTakeData_runsAlone _ _ o s
    · exact rTakeFileNotFound_runsAlone _ o s
    · exact rTakeDone_runsAlone _ o s
    · exact rTakeUnexpected_runsAlone o s

theorem rTimeout_runsAlone : RunsAlone .receiver rTimeout := by
  intro o s
  have hcount : (countTimeoutR (inPlaceOf .receiver o s)).1 = inPlaceOf .receiver o (countTimeoutR s).1 := rfl
  have hcap : (countTimeoutR (inPlaceOf .receiver o s)).2 = (countTimeoutR s).2 := rfl
  simp only [rTimeout, timeoutReqSent, timeoutReceiving, exhaustR, hcount, hcap, inPlaceOf_receiver_rcv,
    sendRequest_inPlaceOf, ackStep_eq, acknowledged_inPlaceOf, output_inPlaceOf, terminateR_inPlaceOf]
  split
  · split_ifs
    · rfl
    · cases sendRequest (countTimeoutR s).1 <;> rfl
    · rfl
  · split_ifs <;> rfl
  all_goals rfl

theorem rDrainEnd_runsAlone : RunsAlone .receiver rDrainEnd := by
  intro o s
  simp only [rDrainEnd, inPlaceOf_receiver_rcv, ackStep_eq, acknowledged_inPlaceOf]
  split
  · split_ifs <;> rfl
  all_goals rfl

theorem takeFetch_inPlaceOf (path : Bytes) :
    takeFetch path (inPlaceOf .receiver o s) = (takeFetch path s).map (inPlaceOf .receiver o) := by
  have hstart : startFetch path (inPlaceOf .receiver o s) = inPlaceOf .receiver o (startFetch path s) := rfl
  simp only [takeFetch, hstart, sendRequest_inPlaceOf]
  cases sendRequest (startFetch path s) with
  | error e => rfl
  | ok u => simp [Except.map]

theorem rFetch_runsAlone (path : Bytes) : RunsAlone .receiver (rFetch path) := by
  intro o s
  simp only [rFetch, inPlaceOf_receiver_rcv, respond_inPlaceOf, takeFetch_inPlaceOf]
  split
  case h_1 | h_2 => rfl
  all_goals split_ifs <;> rfl

/-! The instructions (R104). -/

/-- R73, R104: an instruction of the sender runs one procedure, which runs alone. -/
theorem exec_sender_runsAlone {i : Instr} (he : engineOf i = some .sender) :
    ∃ r, RunsAlone .sender r ∧ ∀ s, exec i s = outcome (r s) := by
  cases i with
  | fileRequest e seq path => cases he; exact ⟨_, sTakeFileRequest_runsAlone path, fun _ => rfl⟩
  | data e seq payload => cases he; exact ⟨_, sTakeUnexpected_runsAlone, fun _ => rfl⟩
  | ack e seq next => cases he; exact ⟨_, sTakeAck_runsAlone next, fun _ => rfl⟩
  | fileNotFound e seq => cases he; exact ⟨_, sTakeUnexpected_runsAlone, fun _ => rfl⟩
  | fileNotFoundAck e seq => cases he; exact ⟨_, sTakeFileNotFoundAck_runsAlone, fun _ => rfl⟩
  | done e seq => cases he; exact ⟨_, sTakeUnexpected_runsAlone, fun _ => rfl⟩
  | doneAck e seq => cases he; exact ⟨_, sTakeDoneAck_runsAlone, fun _ => rfl⟩
  | serve => exact ⟨_, sServe_runsAlone, fun _ => rfl⟩
  | rxS d => exact ⟨_, sReceive_runsAlone d, fun _ => rfl⟩
  | timeoutS => exact ⟨_, sTimeout_runsAlone, fun _ => rfl⟩
  | reset | fetch | rxR | timeoutR | drainEnd => cases he

/-- R73, R104: an instruction of the receiver runs one procedure, which runs alone. -/
theorem exec_receiver_runsAlone {i : Instr} (he : engineOf i = some .receiver) :
    ∃ r, RunsAlone .receiver r ∧ ∀ s, exec i s = outcome (r s) := by
  cases i with
  | fileRequest e seq path => cases he; exact ⟨_, rTakeUnexpected_runsAlone, fun _ => rfl⟩
  | data e seq payload => cases he; exact ⟨_, rTakeData_runsAlone seq payload, fun _ => rfl⟩
  | ack e seq next => cases he; exact ⟨_, rTakeUnexpected_runsAlone, fun _ => rfl⟩
  | fileNotFound e seq => cases he; exact ⟨_, rTakeFileNotFound_runsAlone seq, fun _ => rfl⟩
  | fileNotFoundAck e seq => cases he; exact ⟨_, rTakeUnexpected_runsAlone, fun _ => rfl⟩
  | done e seq => cases he; exact ⟨_, rTakeDone_runsAlone seq, fun _ => rfl⟩
  | doneAck e seq => cases he; exact ⟨_, rTakeUnexpected_runsAlone, fun _ => rfl⟩
  | fetch path => exact ⟨_, rFetch_runsAlone path, fun _ => rfl⟩
  | rxR d => exact ⟨_, rReceive_runsAlone d, fun _ => rfl⟩
  | timeoutR => exact ⟨_, rTimeout_runsAlone, fun _ => rfl⟩
  | drainEnd => exact ⟨_, rDrainEnd_runsAlone, fun _ => rfl⟩
  | reset | serve | rxS | timeoutS => cases he

/-- R73: the next states of an engine's instruction are those of the engine alone, put in its place. -/
theorem exec_inPlaceOf_eq_next {e : Engine} {i : Instr} {t : State} (he : engineOf i = some e) :
    exec i (inPlaceOf e o s) = .next t ↔ ∃ u, exec i s = .next u ∧ inPlaceOf e o u = t := by
  obtain ⟨r, hr, hexec⟩ : ∃ r, RunsAlone e r ∧ ∀ s, exec i s = outcome (r s) := by
    cases e with
    | sender => exact exec_sender_runsAlone he
    | receiver => exact exec_receiver_runsAlone he
  simp only [hexec, hr o s, outcome_eq_next]
  cases r s <;> simp [Except.map]

/-- R73: two states that hold the same engine `x`, each in its own place, take an instruction of that engine in the
same way. -/
theorem exec_eq_next_of_inPlaceOf {e : Engine} {i : Instr} {x s s' t : State} (he : engineOf i = some e)
    (hs : inPlaceOf e s x = s) (hs' : inPlaceOf e s' x = s') (h : exec i s = .next t) :
    ∃ u, u.cfg = x.cfg ∧ t = inPlaceOf e s u ∧ exec i s' = .next (inPlaceOf e s' u) := by
  rw [← hs] at h
  obtain ⟨u, hu, rfl⟩ := (exec_inPlaceOf_eq_next s x he).mp h
  refine ⟨u, (exec_outputsAppended hu).cfg_eq, rfl, ?_⟩
  rw [← hs']
  exact (exec_inPlaceOf_eq_next _ x he).mpr ⟨u, hu, by rw [hs']⟩

/-- R73: a state holds the sender of every state that agrees on its registers and on the parameters, with no output
of that state's own. -/
theorem inPlaceOf_sender_eq_self {s s' : State} (hcfg : s'.cfg = s.cfg) (hsnd : s'.snd = s.snd) :
    inPlaceOf .sender s' { s with out := [] } = s' := by
  simp [inPlaceOf, ← hcfg, ← hsnd]

/-- R73: the same of the receiver. -/
theorem inPlaceOf_receiver_eq_self {s s' : State} (hcfg : s'.cfg = s.cfg) (hrcv : s'.rcv = s.rcv) :
    inPlaceOf .receiver s' { s with out := [] } = s' := by
  simp [inPlaceOf, ← hcfg, ← hrcv]

/-- Settles O43: the two states hold the same engine in two places, and an engine's instruction runs alone. -/
theorem enginesShareNoState : Obligations.EnginesShareNoState := by
  constructor
  · intro i s s' t he hcfg hsnd h
    obtain ⟨u, hu, rfl, h'⟩ :=
      exec_eq_next_of_inPlaceOf he (inPlaceOf_sender_eq_self rfl rfl) (inPlaceOf_sender_eq_self hcfg hsnd) h
    refine ⟨rfl, u.out, rfl, h'.trans ?_⟩
    simp only [inPlaceOf, hu, hcfg]
  · intro i s s' t he hcfg hrcv h
    obtain ⟨u, hu, rfl, h'⟩ :=
      exec_eq_next_of_inPlaceOf he (inPlaceOf_receiver_eq_self rfl rfl) (inPlaceOf_receiver_eq_self hcfg hrcv) h
    refine ⟨rfl, u.out, rfl, h'.trans ?_⟩
    simp only [inPlaceOf, hu, hcfg]

end Sys2Proof.Machine

end

section

namespace Sys2Proof.Machine

open Sys2Proof

/-! ## Taking the next input (R70, R259) -/

theorem takeInput_cons {s : State} {w : Input} {rest : List Input} (h : s.inputs = w :: rest) :
    takeInput s = some (w, { s with inputs := rest }) := by
  simp only [takeInput, h]

/-- Settles O15: the input taken is the one at the head. -/
theorem stepRunsTheDecodedInstruction : Obligations.StepRunsTheDecodedInstruction := by
  intro s w rest i hinputs hdecode
  simp only [step, takeInput_cons hinputs, hdecode]

end Sys2Proof.Machine

end

section

namespace Sys2Proof.Machine

open Sys2Proof

/-! ## The checksum as a number (R120 to R126) -/

/-- R123: the closed form of the folded sum, as a function of the plain word sum. -/
def endAround (n : Nat) : Nat := if n = 0 then 0 else (n - 1) % 0xFFFF + 1

theorem endAround_eq_self {n : Nat} (h : n ≤ 0xFFFF) : endAround n = n := by
  unfold endAround
  split_ifs <;> omega

theorem endAround_le (n : Nat) : endAround n ≤ 0xFFFF := by
  unfold endAround
  split_ifs <;> omega

/-- R122: folding early does not change the folded sum. -/
theorem endAround_add (a b : Nat) : endAround (endAround a + b) = endAround (a + b) := by
  unfold endAround
  split_ifs <;> omega

/-- R126: the folded sums whose complement is zero. -/
theorem endAround_eq_max {n : Nat} : endAround n = 0xFFFF ↔ 0 < n ∧ n % 0xFFFF = 0 := by
  unfold endAround
  split_ifs with h
  · simp [h]
  · omega

/-- R120: one fold adds the carry bits to the low half, without a carry of its own. -/
theorem foldCarry_toNat (sum : Acc) : (foldCarry sum).toNat = sum.toNat % 2 ^ 16 + sum.toNat / 2 ^ 16 := by
  have hlow : (sum &&& 0xFFFF#32).toNat = sum.toNat % 2 ^ 16 := by
    simpa using Nat.and_two_pow_sub_one_eq_mod sum.toNat 16
  rw [foldCarry, BitVec.toNat_add, hlow, BitVec.toNat_ushiftRight, Nat.shiftRight_eq_div_pow]
  omega

/-- R122: adding a word and folding keeps the folded sum. -/
theorem foldCarry_add_toNat {sum w : Acc} (hsum : sum.toNat ≤ 0xFFFF) (hw : w.toNat ≤ 0xFFFF) :
    (foldCarry (sum + w)).toNat = endAround (sum.toNat + w.toNat) := by
  rw [foldCarry_toNat, BitVec.toNat_add_of_lt (by omega)]
  unfold endAround
  split_ifs <;> omega

/-- R67: the first byte of a pair is the low one. -/
theorem pairWord_toNat (lo hi : Byte) : (pairWord lo hi).toNat = lo.toNat + 256 * hi.toNat := by
  have hor : hi.toNat <<< 8 ||| lo.toNat = hi.toNat <<< 8 + lo.toNat := (Nat.shiftLeft_add_eq_or_of_lt lo.isLt _).symm
  simp only [pairWord, BitVec.toNat_or, BitVec.toNat_setWidth, BitVec.toNat_shiftLeft]
  rw [Nat.mod_eq_of_lt (by omega), Nat.mod_eq_of_lt (b := 2 ^ 32) (by omega), Nat.mod_eq_of_lt (by omega),
    Nat.or_comm, hor]
  omega

/-- R122, R123: the running sum folded after each addition is the plain sum folded once. -/
theorem sumWords_toNat (sum : Acc) (b : Bytes) (h : sum.toNat ≤ 0xFFFF) :
    (sumWords sum b).toNat = endAround (sum.toNat + wordSum b) := by
  induction sum, b using sumWords.induct with
  | case1 sum lo hi rest ih =>
    have hw := pairWord_toNat lo hi
    have hfold := foldCarry_add_toNat (w := pairWord lo hi) h (by omega)
    rw [sumWords, ih (hfold ▸ endAround_le _), hfold, endAround_add, wordSum, hw]
    congr 1
    omega
  | case2 sum last =>
    have hw : (last.setWidth 32).toNat = last.toNat := BitVec.toNat_setWidth_of_le (by omega)
    rw [sumWords, foldCarry_add_toNat h (by omega), wordSum, hw]
  | case3 sum => exact (endAround_eq_self h).symm

/-- R122: the final loop has nothing left to fold. -/
theorem foldToEnd_eq_self {sum : Acc} (h : sum.toNat ≤ 0xFFFF) (n : Nat) : foldToEnd n sum = sum := by
  cases n with
  | zero => rfl
  | succ n =>
    have hcarry : sum >>> 16 = 0#32 := by
      apply BitVec.eq_of_toNat_eq
      simp only [BitVec.toNat_ushiftRight, Nat.shiftRight_eq_div_pow, BitVec.toNat_ofNat]
      omega
    exact if_pos hcarry

/-- R123: the folded sum in closed form. -/
theorem foldedSum_eq (b : Bytes) : foldedSum b = endAround (wordSum b) := by
  have hsum : (sumWords 0#32 b).toNat = endAround (wordSum b) := by
    simpa using sumWords_toNat 0#32 b (by decide)
  rw [foldedSum, foldToEnd_eq_self (hsum ▸ endAround_le _), hsum]

/-- R120, R123: the checksum is the complement of the folded sum. -/
theorem checksum_toNat (b : Bytes) : (checksum b).toNat = 0xFFFF - endAround (wordSum b) := by
  have hfold : (foldToEnd 2 (sumWords 0#32 b)).toNat = endAround (wordSum b) := foldedSum_eq b
  have hle := endAround_le (wordSum b)
  simp only [checksum, BitVec.toNat_setWidth, BitVec.toNat_not, hfold]
  omega

/-- R126: the buffers that verify. -/
theorem verify_iff {b : Bytes} : verify b = true ↔ 0 < wordSum b ∧ wordSum b % 0xFFFF = 0 := by
  have hle := endAround_le (wordSum b)
  rw [← endAround_eq_max, verify, beq_iff_eq, ← BitVec.toNat_inj, checksum_toNat, BitVec.toNat_ofNat]
  omega

end Sys2Proof.Machine

end

section

namespace Sys2Proof.Machine

open Sys2Proof

/-! ## The framed packet, field by field (R90, R94, R124) -/

theorem putBE32_length (v : BitVec 32) : (putBE32 v).length = ackPayload := rfl

theorem be16_putBE16 (v : BitVec 16) : be16 (putBE16 v) 0 = v := by
  have hsplit : (v.extractLsb' 8 8 ++ v.extractLsb' 0 8 : BitVec 16) = v.extractLsb' 0 16 :=
    BitVec.extractLsb'_append_extractLsb'_eq_extractLsb' rfl
  exact hsplit.trans BitVec.extractLsb'_eq_self

theorem be32_putBE32 (v : BitVec 32) : be32 (putBE32 v) 0 = v := by
  have hhigh : (v.extractLsb' 24 8 ++ v.extractLsb' 16 8 : BitVec 16) = v.extractLsb' 16 16 :=
    BitVec.extractLsb'_append_extractLsb'_eq_extractLsb' rfl
  have hlow : (v.extractLsb' 8 8 ++ v.extractLsb' 0 8 : BitVec 16) = v.extractLsb' 0 16 :=
    BitVec.extractLsb'_append_extractLsb'_eq_extractLsb' rfl
  have hsplit : (v.extractLsb' 16 16 ++ v.extractLsb' 0 16 : BitVec 32) = v.extractLsb' 0 32 :=
    BitVec.extractLsb'_append_extractLsb'_eq_extractLsb' rfl
  calc be32 (putBE32 v) 0
      = ((v.extractLsb' 24 8 ++ v.extractLsb' 16 8 : BitVec 16) ++
          (v.extractLsb' 8 8 ++ v.extractLsb' 0 8 : BitVec 16) : BitVec 32) := rfl
    _ = v := by rw [hhigh, hlow, hsplit, BitVec.extractLsb'_eq_self]

section

variable (op : Byte) (seq : SeqNo) (csum : BitVec 16) (payload : Bytes)

@[simp] theorem packetBytes_length : (packetBytes op seq csum payload).length = hdrLen + payload.length := by
  rw [packetBytes, List.length_append]
  rfl

@[simp] theorem packetBytes_op : byteAt (packetBytes op seq csum payload) 0 = op := rfl

@[simp] theorem packetBytes_seq : be32 (packetBytes op seq csum payload) 1 = seq := be32_putBE32 seq

@[simp] theorem packetBytes_len :
    be16 (packetBytes op seq csum payload) 5 = BitVec.ofNat 16 payload.length := be16_putBE16 _

@[simp] theorem packetBytes_csum : be16 (packetBytes op seq csum payload) 7 = csum := be16_putBE16 csum

@[simp] theorem packetBytes_payload : (packetBytes op seq csum payload).drop hdrLen = payload := rfl

/-- R124: the buffer the checksum is computed over. -/
theorem packetBytes_zero_csum :
    ((packetBytes op seq csum payload).set 7 0#8).set 8 0#8 = packetBytes op seq 0#16 payload := rfl

/-- R90: the checksum field straddles two words of R120, and still adds its own number to the sum. -/
theorem wordSum_packetBytes :
    wordSum (packetBytes op seq csum payload) = csum.toNat + wordSum (packetBytes op seq 0#16 payload) := by
  have hlast (c : Byte) : wordSum (c :: payload) = c.toNat + wordSum (0#8 :: payload) := by
    cases payload <;> simp [wordSum, Nat.add_assoc]
  have hzero : (0#16).extractLsb' 8 8 = 0#8 ∧ (0#16).extractLsb' 0 8 = 0#8 := by decide
  have hbytes : csum.toNat = 256 * (csum.extractLsb' 8 8).toNat + (csum.extractLsb' 0 8).toNat := by
    simp only [BitVec.extractLsb'_toNat, Nat.shiftRight_eq_div_pow]
    omega
  simp only [packetBytes, headerBytes, putBE32, putBE16, List.cons_append, List.nil_append, wordSum, hzero]
  rw [hlast (csum.extractLsb' 0 8), hbytes, BitVec.toNat_ofNat]
  omega

/-- R125: a framed packet verifies. -/
theorem verify_frame : verify (frame op seq payload) = true := by
  rw [verify_iff, frame, wordSum_packetBytes, checksum_toNat]
  unfold endAround
  split_ifs <;> omega

end

/-- R90: the two bytes of the length field, as numbers. -/
theorem putBE16_ofNat (n : Nat) : putBE16 (BitVec.ofNat 16 n) = [BitVec.ofNat 8 (n / 256), BitVec.ofNat 8 n] := by
  have hhigh : (BitVec.ofNat 16 n).extractLsb' 8 8 = BitVec.ofNat 8 (n / 256) := by
    apply BitVec.eq_of_toNat_eq
    simp only [BitVec.extractLsb'_toNat, BitVec.toNat_ofNat, Nat.shiftRight_eq_div_pow]
    omega
  have hlow : (BitVec.ofNat 16 n).extractLsb' 0 8 = BitVec.ofNat 8 n := by
    apply BitVec.eq_of_toNat_eq
    simp
  rw [putBE16, hhigh, hlow]

/-- R128: on its preconditions Encode answers the framed packet. -/
theorem encodePacket_eq_frame {op : Byte} {seq : SeqNo} {payload : Bytes} (hop : op.toNat ≤ 6)
    (hlen : payload.length ≤ chunkSize) : encodePacket op seq.toNat payload = some (frame op seq payload) := by
  rw [encodePacket, if_pos ⟨hop, seq.isLt, hlen⟩, BitVec.ofNat_toNat, BitVec.setWidth_eq]

/-- Settles O4: the packet is the framed one, and each field is read off its bytes. -/
theorem encodeLaysOutThePacket : Obligations.EncodeLaysOutThePacket := by
  intro op seq payload hop hlen
  refine ⟨_, encodePacket_eq_frame hop hlen, packetBytes_length .., ?_, ?_, packetBytes_payload ..⟩
  · change op :: (putBE32 seq ++ putBE16 (BitVec.ofNat 16 payload.length)) = _
    rw [putBE16_ofNat]
    rfl
  · rw [frame, packetBytes_zero_csum, packetBytes_csum]

/-! ## Decoding what was encoded (R103, R129, R132) -/

/-- R103: the packet value of a framed packet. -/
def framedPacket (op : Byte) (seq : SeqNo) (payload : Bytes) : Packet :=
  { op := op, seq := seq, len := BitVec.ofNat 16 payload.length,
    csum := checksum (packetBytes op seq 0#16 payload), payload := payload }

theorem packetFields_frame (op : Byte) (seq : SeqNo) (payload : Bytes) :
    packetFields (frame op seq payload) = framedPacket op seq payload := by
  simp [packetFields, framedPacket, frame]

/-- R132: a framed packet passes every check and decodes to its own fields. -/
theorem decodePacket_frame {op : Byte} {seq : SeqNo} {payload : Bytes} (hop : op.toNat ≤ 6)
    (hlen : payload.length ≤ chunkSize) (hallowed : payloadAllowed op payload.length = true) :
    decodePacket (frame op seq payload) = .ok (framedPacket op seq payload) := by
  have hlength : (frame op seq payload).length = hdrLen + payload.length := packetBytes_length ..
  have hopcode : byteAt (frame op seq payload) 0 = op := packetBytes_op ..
  have hfield : (be16 (frame op seq payload) 5).toNat = payload.length := by
    rw [frame, packetBytes_len, BitVec.toNat_ofNat, Nat.mod_eq_of_lt (hlen.trans_lt (by decide))]
  have hshort : ¬ hdrLen + payload.length < hdrLen := Nat.not_lt.mpr (Nat.le_add_right ..)
  have hlong : ¬ maxDgram < hdrLen + payload.length := Nat.not_lt.mpr (Nat.add_le_add_left hlen hdrLen)
  simp [decodePacket, hlength, hshort, hlong, verify_frame, hopcode, hop, hfield, hallowed, packetFields_frame]

end Sys2Proof.Machine

end

section

namespace Sys2Proof.Machine

open Sys2Proof

/-! ## Reading an input (R104, R105, R107) -/

/-- R76: a delivery is read as the delivered datagram. -/
theorem decode_delivery (e : Engine) (d : Datagram) : decode (delivery e d) = .ok (delivered e d) := by
  cases e <;> rfl

/-- R96: a datagram that is a packet is delivered as the packet's instruction. -/
theorem delivered_of_packet {e : Engine} {d : Datagram} {p : Packet} {i : Instr} (hd : decodePacket d = .ok p)
    (hi : packetInstr e p = some i) : delivered e d = i := by
  simp only [delivered, hd, hi]

/-- R152, R202: a datagram that is no packet is delivered as the engine's RX row (log 8). -/
theorem delivered_of_not_packet {d : Datagram} (h : (decodePacket d).isOk = false) :
    delivered .sender d = .rxS d ∧ delivered .receiver d = .rxR d := by
  unfold delivered
  rcases hd : decodePacket d with c | p
  · exact ⟨rfl, rfl⟩
  · simp [hd, Except.isOk, Except.toBool] at h

/-- R96, R132: a framed packet is delivered as the instruction of its opcode. -/
theorem decode_delivery_frame {e : Engine} {op : Byte} {seq : SeqNo} {payload : Bytes} {i : Instr}
    (hop : op.toNat ≤ 6) (hlen : payload.length ≤ chunkSize) (hallowed : payloadAllowed op payload.length = true)
    (hi : packetInstr e (framedPacket op seq payload) = some i) :
    decode (delivery e (frame op seq payload)) = .ok i := by
  rw [decode_delivery, delivered_of_packet (decodePacket_frame hop hlen hallowed) hi]

/-- Settles O13: a packet's encoding is the delivery of its frame, which decodes to its own fields; an RX row's is the
delivery of a datagram that is no packet; every other row is a code of its own. -/
theorem decodeReadsTheEncodedInstruction : Obligations.DecodeReadsTheEncodedInstruction := by
  intro i hw
  cases i with
  | fileRequest e seq path => exact decode_delivery_frame (by decide) (of_decide_eq_true hw) rfl rfl
  | data e seq payload => exact decode_delivery_frame (by decide) (of_decide_eq_true hw) rfl rfl
  | ack e seq next =>
    have hnext : ackNext (framedPacket 0x02#8 seq (putBE32 next)) = next := be32_putBE32 next
    have hlen : (putBE32 next).length ≤ chunkSize := (putBE32_length next).trans_le (by decide)
    exact decode_delivery_frame (by decide) hlen rfl (congrArg (some <| Instr.ack e seq ·) hnext)
  | fileNotFound | fileNotFoundAck | done | doneAck => exact decode_delivery_frame (by decide) (by decide) rfl rfl
  | rxS d =>
    have hd : (decodePacket d).isOk = false := by simpa [Instr.wf] using hw
    rw [encode, decode_delivery, (delivered_of_not_packet hd).1]
  | rxR d =>
    have hd : (decodePacket d).isOk = false := by simpa [Instr.wf] using hw
    rw [encode, decode_delivery, (delivered_of_not_packet hd).2]
  | reset | serve | fetch | timeoutS | timeoutR | drainEnd => rfl

/-- Settles O14: `decode_wf`, a delivered datagram being an RX row only where it decodes to no packet. -/
theorem decodeGivesWellFormedInstructions : Obligations.DecodeGivesWellFormedInstructions :=
  fun _ _ h => decode_wf h

/-- Settles O11: the framer run on the seven packets of R112. -/
theorem examplePacketsAreEncodedAsWritten : Obligations.ExamplePacketsAreEncodedAsWritten := by
  unfold Obligations.ExamplePacketsAreEncodedAsWritten
  decide

/-- Settles O12: the decoder run on the eight inputs. -/
theorem writtenOutWordsAreRead : Obligations.WrittenOutWordsAreRead := by
  unfold Obligations.WrittenOutWordsAreRead
  decide

/-- R105: a command code other than those of SERVE and FETCH is unknown. -/
theorem decodeCommand_unknown {c : Byte} (hserve : c ≠ 0x10#8) (hfetch : c ≠ 0x11#8) (operand : Bytes) :
    decodeCommand c operand = .error (.unknownCommand c) := by
  unfold decodeCommand
  split
  case h_1 hc => exact absurd (BitVec.eq_of_toNat_eq hc) hserve
  case h_2 hc => exact absurd (BitVec.eq_of_toNat_eq hc) hfetch
  case h_3 => rfl

/-- R107: an event code outside the alphabet of R104 is reserved. -/
theorem decodeEvent_reserved {c : Byte} (h : c ∉ [0x01#8, 0x10#8, 0x11#8, 0x20#8, 0x21#8, 0x30#8, 0x31#8, 0x41#8])
    (operand : Bytes) : decodeEvent c operand = .error (.reservedEvent c) := by
  simp only [List.mem_cons, List.not_mem_nil, or_false, not_or, ← BitVec.toNat_inj, BitVec.toNat_ofNat] at h
  unfold decodeEvent
  split
  case h_9 => rfl
  all_goals omega

/-- R70: a step answers a head input that is no instruction. -/
theorem step_eq_rejectInput {s : State} {w : Input} {rest : List Input} {e : DecodeError} (h : s.inputs = w :: rest)
    (hd : decode w = .error e) : step s = rejectInput e { s with inputs := rest } := by
  simp only [step, takeInput_cons h, hd]

/-- Settles O17: the decoder's error is the unknown command, whose answer writes no register. -/
theorem unknownCommandsAreAnswered : Obligations.UnknownCommandsAreAnswered := by
  intro s c operand rest hserve hfetch h
  exact step_eq_rejectInput h (decodeCommand_unknown hserve hfetch operand)

/-- Settles O18: the decoder's error is the reserved event, which is refused with its code. -/
theorem reservedEventCodesAreRefused : Obligations.ReservedEventCodesAreRefused := by
  intro s c operand rest hc h
  exact step_eq_rejectInput h (decodeEvent_reserved hc operand)

/-! ## Events that are not enabled (R104) -/

theorem sTimeout_not_enabled {s : State} (h : s.snd.state ∉ [.sendWait, .doneWait, .missing]) :
    sTimeout s = .error (.refused (.eventNotEnabled 0x30#8)) := by
  unfold sTimeout
  split
  case h_1 hs | h_2 hs | h_3 hs => simp [hs] at h
  all_goals rfl

theorem rTimeout_not_enabled {s : State} (h : s.rcv.state ∉ [.reqSent, .receiving]) :
    rTimeout s = .error (.refused (.eventNotEnabled 0x31#8)) := by
  unfold rTimeout
  split
  case h_1 hs | h_2 hs => simp [hs] at h
  all_goals rfl

theorem rDrainEnd_not_enabled {s : State} (h : ¬ (s.rcv.state = .receiving ∧ 1 ≤ s.rcv.bc)) :
    rDrainEnd s = .error (.refused (.eventNotEnabled 0x41#8)) := by
  unfold rDrainEnd
  split
  case h_1 hs => exact if_neg fun hb => h ⟨hs, hb⟩
  all_goals rfl

/-- Settles O19: each of the three events runs one procedure, which refuses in every other state. -/
theorem eventsNotEnabledHaveNoStep : Obligations.EventsNotEnabledHaveNoStep :=
  fun _ => ⟨fun h => congrArg outcome (sTimeout_not_enabled h), fun h => congrArg outcome (rTimeout_not_enabled h),
    fun h => congrArg outcome (rDrainEnd_not_enabled h)⟩

end Sys2Proof.Machine

end

section

namespace Sys2Proof.Machine

open Sys2Proof

/-! ## Encode's domain and Decode's checks (R97, R128, R129) -/

/-- R124, R128: where Encode answers, and with what. -/
theorem encodePacket_eq_some_iff {op : Byte} {seq : Nat} {payload d : Bytes} :
    encodePacket op seq payload = some d ↔
      (op.toNat ≤ 6 ∧ seq < 2 ^ 32 ∧ payload.length ≤ chunkSize) ∧ d = frame op (BitVec.ofNat 32 seq) payload := by
  rw [encodePacket]
  split_ifs with hdomain
  · exact ⟨fun h => ⟨hdomain, (Option.some.inj h).symm⟩, fun h => congrArg some h.2.symm⟩
  · exact ⟨nofun, fun h => absurd h.1 hdomain⟩

/-- R126: a buffer verifies where its checksum is zero. -/
theorem verify_iff_checksum {b : Bytes} : verify b = true ↔ checksum b = 0#16 := beq_iff_eq

theorem verify_eq_false_iff_checksum {b : Bytes} : verify b = false ↔ checksum b ≠ 0#16 := by
  rw [← Bool.not_eq_true, verify_iff_checksum]

/-- R97: the payload constraint, for the opcodes of R96. -/
theorem payloadAllowed_iff {op : Byte} {n : Nat} (hop : op.toNat ≤ 6) :
    payloadAllowed op n = true ↔ (op.toNat = 2 → n = ackPayload) ∧ (3 ≤ op.toNat → n = 0) := by
  unfold payloadAllowed
  split
  case h_1 h => simp [h]
  case h_2 h | h_3 h | h_4 h | h_5 h => simp [h]
  case h_6 hack h3 h4 h5 h6 =>
    simp only [imp_false] at hack h3 h4 h5 h6
    exact ⟨fun _ => ⟨fun h => absurd h hack, fun h => by omega⟩, fun _ => rfl⟩

/-! Decode's answer at each of its checks, given that the datagram passes the ones before it. -/

section

variable {b : Bytes}

theorem decodePacket_short (hshort : b.length < hdrLen) : decodePacket b = .error .short := if_pos hshort

theorem decodePacket_long (hlong : maxDgram < b.length) : decodePacket b = .error .long := by
  have hmin : hdrLen ≤ b.length := (by decide : hdrLen ≤ maxDgram).trans hlong.le
  rw [decodePacket, if_neg hmin.not_gt, if_pos hlong]

variable (hmin : hdrLen ≤ b.length) (hmax : b.length ≤ maxDgram)
include hmin hmax

theorem decodePacket_corrupt (hcorrupt : verify b = false) : decodePacket b = .error .corrupt := by
  rw [decodePacket, if_neg hmin.not_gt, if_neg hmax.not_gt, if_pos hcorrupt]

variable (hverify : verify b = true)
include hverify

theorem decodePacket_badOpcode (hbad : 6 < (byteAt b 0).toNat) : decodePacket b = .error .badOpcode := by
  simp only [decodePacket, hmin.not_gt, hmax.not_gt, hverify, hbad, if_true, if_false, reduceCtorEq]

variable (hop : (byteAt b 0).toNat ≤ 6)
include hop

theorem decodePacket_badLength (hbad : (be16 b 5).toNat ≠ b.length - hdrLen) :
    decodePacket b = .error .badLength := by
  simp only [decodePacket, hmin.not_gt, hmax.not_gt, hverify, hop.not_gt, if_pos hbad, if_false, reduceCtorEq]

variable (hfield : (be16 b 5).toNat = b.length - hdrLen)
include hfield

theorem decodePacket_badPayload (hbad : payloadAllowed (byteAt b 0) (be16 b 5).toNat ≠ true) :
    decodePacket b = .error .badPayload := by
  simp only [decodePacket, hmin.not_gt, hmax.not_gt, hverify, hop.not_gt, if_neg (not_not_intro hfield),
    Bool.eq_false_iff.mpr hbad, if_true, if_false, reduceCtorEq]

theorem decodePacket_ok (hallowed : payloadAllowed (byteAt b 0) (be16 b 5).toNat = true) :
    decodePacket b = .ok (packetFields b) := by
  simp only [decodePacket, hmin.not_gt, hmax.not_gt, hverify, hop.not_gt, if_neg (not_not_intro hfield), hallowed,
    if_false, reduceCtorEq]

end

/-- R129: the checks that a datagram which decodes has passed, beside those of `decodePacket_eq_ok`. -/
theorem decodePacket_passed {b : Bytes} {p : Packet} (h : decodePacket b = .ok p) :
    hdrLen ≤ b.length ∧ verify b = true ∧ (be16 b 5).toNat = b.length - hdrLen ∧
      payloadAllowed (byteAt b 0) (be16 b 5).toNat = true := by
  unfold decodePacket at h
  split_ifs at h with hshort hlong hcorrupt hop hfield hallowed
  exact ⟨Nat.le_of_not_lt hshort, Bool.of_not_eq_false hcorrupt, not_not.mp hfield, Bool.of_not_eq_false hallowed⟩

/-- Settles O8: `decodePacket_frame`, the stored checksum field being the one the framer computed. -/
theorem decodeReturnsTheEncodedPacket : Obligations.DecodeReturnsTheEncodedPacket := by
  intro op seq payload hop hlen hallowed
  refine ⟨_, encodePacket_eq_frame hop hlen, ?_⟩
  rw [decodePacket_frame hop hlen hallowed, frame, packetBytes_csum]
  rfl

/-- Settles O5: Encode's own guard, its bound on `seq` written strictly. -/
theorem encodeRefusesOutsideItsDomain : Obligations.EncodeRefusesOutsideItsDomain := by
  intro op seq payload
  simp only [Option.isSome_iff_exists, encodePacket_eq_some_iff, exists_and_left, exists_eq, and_true, chunkSize]
  omega

/-- Settles O6: each clause is Decode's answer at one check, with R97's constraint as `payloadAllowed_iff` has it. -/
theorem decodeReportsTheFirstFailingCheck : Obligations.DecodeReportsTheFirstFailingCheck := by
  refine fun b => ⟨decodePacket_short, decodePacket_long, fun hmin hmax => ⟨fun hsum => ?_, fun hsum => ?_⟩⟩
  · exact decodePacket_corrupt hmin hmax (verify_eq_false_iff_checksum.mpr hsum)
  have hverify : verify b = true := verify_iff_checksum.mpr hsum
  refine ⟨decodePacket_badOpcode hmin hmax hverify, fun hop =>
    ⟨decodePacket_badLength hmin hmax hverify hop, fun hfield => ?_⟩⟩
  have hbad := decodePacket_badPayload hmin hmax hverify hop hfield
  have hpayload := payloadAllowed_iff (n := (be16 b 5).toNat) hop
  refine ⟨fun hack hlen => hbad fun h => hlen ((hpayload.mp h).1 hack),
    fun hbare hlen => hbad fun h => hlen ((hpayload.mp h).2 hbare), fun hallowed => ?_⟩
  exact decodePacket_ok hmin hmax hverify hop hfield (hpayload.mpr (by simp only [ackPayload]; omega))

/-- Settles O7: what the checks of R129 leave, read off the packet's fields. -/
theorem decodedPacketGuarantees : Obligations.DecodedPacketGuarantees := by
  intro b p h
  obtain ⟨hmin, hverify, hfield, hallowed⟩ := decodePacket_passed h
  obtain ⟨hmax, hop, rfl⟩ := decodePacket_eq_ok h
  obtain ⟨hack, hbare⟩ := (payloadAllowed_iff hop).mp hallowed
  have hlen : (be16 b 5).toNat ≤ chunkSize := hfield.trans_le (Nat.sub_le_sub_right hmax hdrLen)
  have hpayload : (b.drop hdrLen).length = (be16 b 5).toNat := List.length_drop.trans hfield.symm
  exact ⟨hop, hmin, hfield, hlen, hpayload, hack, hbare, hverify⟩

/-! ## The laws of the checksum (R122, R123, R125, R127) -/

/-- R122: the running sum stays within 16 bits. -/
theorem sumWords_toNat_le {sum : Acc} (h : sum.toNat ≤ 0xFFFF) (b : Bytes) : (sumWords sum b).toNat ≤ 0xFFFF :=
  (sumWords_toNat sum b h).trans_le (endAround_le _)

/-- Settles O1: one fold is `endAround`, which is a 16-bit number, and so is the running sum. -/
theorem foldKeepsTheSumInSixteenBits : Obligations.FoldKeepsTheSumInSixteenBits := by
  refine ⟨fun sum w hsum hw => ⟨?_, ?_⟩, by decide, fun sum b hsum => sumWords_toNat_le hsum b, fun b n => ?_⟩
  · rw [BitVec.toNat_add_of_lt (by omega)]
    omega
  · exact (foldCarry_add_toNat hsum hw).trans_le (endAround_le _)
  · exact foldToEnd_eq_self (sumWords_toNat_le (by decide) b) n

theorem endAround_eq_zero {n : Nat} : endAround n = 0 ↔ n = 0 := by
  unfold endAround
  split_ifs with h <;> simp [h]

theorem byte_toNat_eq_zero {x : Byte} : x.toNat = 0 ↔ x = 0#8 := BitVec.toNat_inj (y := 0#8)

/-- R123: every byte counts in the word sum. -/
theorem wordSum_eq_zero {b : Bytes} : wordSum b = 0 ↔ ∀ x ∈ b, x = 0#8 := by
  induction b using wordSum.induct with
  | case1 lo hi rest ih => simp [wordSum, ih, byte_toNat_eq_zero, and_assoc]
  | case2 last => simp [wordSum, byte_toNat_eq_zero]
  | case3 => simp [wordSum]

/-- Settles O2: `foldedSum_eq` and `checksum_toNat` give both sums as `endAround` of the word sum. -/
theorem checksumClosedForm : Obligations.ChecksumClosedForm := by
  intro b
  rw [foldedSum_eq]
  refine ⟨endAround_eq_zero, wordSum_eq_zero, fun hpos => ?_, checksum_toNat b, ?_⟩
  · have hform : endAround (wordSum b) = (wordSum b - 1) % 65535 + 1 := if_neg hpos
    exact ⟨hform, by omega, endAround_le _⟩
  · rw [← verify_iff_checksum, verify_iff]

/-- Settles O3: `verify_frame`, and the two DONE packets run. -/
theorem encodedPacketVerifies : Obligations.EncodedPacketVerifies := by
  refine ⟨fun op seq payload d h => ?_, by decide, by decide⟩
  obtain ⟨-, rfl⟩ := encodePacket_eq_some_iff.mp h
  have hverify := verify_frame op (BitVec.ofNat 32 seq) payload
  exact ⟨verify_iff_checksum.mp hverify, hverify⟩

/-- Settles O10: `verify_iff` sees the word sum alone, up to multiples of 65535. -/
theorem equalWordSumsGoUndetected : Obligations.EqualWordSumsGoUndetected := by
  refine ⟨fun b b' hb hpos hmod => ?_, fun n => ?_⟩
  · exact verify_iff.mpr ⟨hpos, hmod.trans (verify_iff.mp hb).2⟩
  · have hzero : wordSum (List.replicate n 0#8) = 0 := wordSum_eq_zero.mpr fun x hx => List.eq_of_mem_replicate hx
    rw [← Bool.not_eq_true, verify_iff, hzero]
    exact fun h => absurd h.1 (Nat.lt_irrefl 0)

/-! ## Single-bit errors (R127) -/

/-- R67: what byte `i` of a buffer counts for in the word sum. -/
def byteWeight (i : Nat) : Nat := if i % 2 = 0 then 1 else 256

theorem byteWeight_zero : byteWeight 0 = 1 := rfl

theorem byteWeight_one : byteWeight 1 = 256 := rfl

theorem byteWeight_add_two (i : Nat) : byteWeight (i + 2) = byteWeight i := by
  simp [byteWeight]

/-- R67, R127: replacing one byte changes the word sum by that byte's weight alone. -/
theorem wordSum_set {b : Bytes} {i : Nat} (hi : i < b.length) (v : Byte) :
    wordSum (b.set i v) + byteWeight i * (byteAt b i).toNat = wordSum b + byteWeight i * v.toNat := by
  induction b using wordSum.induct generalizing i with
  | case1 lo hi' rest ih =>
    match i with
    | 0 =>
      have hbyte : byteAt (lo :: hi' :: rest) 0 = lo := rfl
      rw [byteWeight_zero, hbyte, List.set_cons_zero, wordSum, wordSum]
      omega
    | 1 =>
      have hbyte : byteAt (lo :: hi' :: rest) 1 = hi' := rfl
      rw [byteWeight_one, hbyte, List.set_cons_succ, List.set_cons_zero, wordSum, wordSum]
      omega
    | k + 2 =>
      have hk := ih (i := k) (by simpa using hi)
      have hbyte : byteAt (lo :: hi' :: rest) (k + 2) = byteAt rest k := rfl
      rw [byteWeight_add_two, hbyte, List.set_cons_succ, List.set_cons_succ, wordSum, wordSum]
      omega
  | case2 last =>
    obtain rfl : i = 0 := by simpa using hi
    simp [wordSum, byteWeight, byteAt, Nat.add_comm]
  | case3 => exact absurd hi (Nat.not_lt_zero i)

/-- Flipping a clear bit adds its place value. -/
theorem xor_twoPow_toNat {x : Byte} {j : Nat} (hj : j < 8) (hclear : x.getLsbD j = false) :
    (x ^^^ BitVec.twoPow 8 j).toNat = x.toNat + 2 ^ j := by
  have hand : x &&& BitVec.twoPow 8 j = 0#8 := by simp [BitVec.and_twoPow, hclear]
  have hxor : x ^^^ BitVec.twoPow 8 j = x ||| BitVec.twoPow 8 j := by
    ext k hk
    rcases eq_or_ne k j with rfl | hkj
    · simp [← BitVec.getLsbD_eq_getElem, hclear]
    · simp [BitVec.getElem_twoPow, hkj]
  rw [hxor, ← BitVec.add_eq_or_of_and_eq_zero _ _ hand, BitVec.toNat_add_of_and_eq_zero hand,
    BitVec.toNat_twoPow_of_lt hj]

/-- R127: flipping a bit adds or takes away its place value. -/
theorem xor_twoPow_toNat_cases (x : Byte) {j : Nat} (hj : j < 8) :
    (x ^^^ BitVec.twoPow 8 j).toNat = x.toNat + 2 ^ j ∨ x.toNat = (x ^^^ BitVec.twoPow 8 j).toNat + 2 ^ j := by
  rcases hbit : x.getLsbD j with _ | _
  · exact .inl (xor_twoPow_toNat hj hbit)
  · have hflipped : (x ^^^ BitVec.twoPow 8 j).getLsbD j = false := by simp [hbit, hj]
    have hback := xor_twoPow_toNat hj hflipped
    rw [BitVec.xor_assoc, BitVec.xor_self, BitVec.xor_zero] at hback
    exact .inr hback

/-- R127: what a bit counts for in the word sum, a power of two up to `2^15`. -/
def bitWeight (i j : Nat) : Nat := byteWeight i * 2 ^ j

theorem bitWeight_pos (i j : Nat) : 0 < bitWeight i j := by
  unfold bitWeight byteWeight
  split_ifs <;> positivity

theorem bitWeight_lt {j : Nat} (hj : j < 8) (i : Nat) : bitWeight i j < 0xFFFF := by
  have hpow : 2 ^ j ≤ 2 ^ 7 := Nat.pow_le_pow_right (by decide) (by omega)
  unfold bitWeight byteWeight
  split_ifs <;> omega

/-- R127: a bit flip changes the word sum by the bit's weight. -/
theorem wordSum_flipBit {b : Bytes} {i j : Nat} (hi : i < b.length) (hj : j < 8) :
    wordSum (flipBit b i j) = wordSum b + bitWeight i j ∨ wordSum b = wordSum (flipBit b i j) + bitWeight i j := by
  have hset := wordSum_set hi (byteAt b i ^^^ BitVec.twoPow 8 j)
  rw [← flipBit] at hset
  rcases xor_twoPow_toNat_cases (byteAt b i) hj with hup | hdown
  · rw [hup, Nat.mul_add] at hset
    exact .inl (by unfold bitWeight; omega)
  · rw [hdown, Nat.mul_add] at hset
    exact .inr (by unfold bitWeight; omega)

/-- R127: a buffer that verifies does not with one bit flipped, for the bit's weight is no multiple of 65535. -/
theorem verify_flipBit {b : Bytes} {i j : Nat} (hb : verify b = true) (hi : i < b.length) (hj : j < 8) :
    verify (flipBit b i j) = false := by
  have hpos := bitWeight_pos i j
  have hlt := bitWeight_lt hj i
  obtain ⟨-, hmod⟩ := verify_iff.mp hb
  rw [← Bool.not_eq_true, verify_iff]
  rintro ⟨-, hmod'⟩
  rcases wordSum_flipBit hi hj with hup | hdown <;> omega

@[simp] theorem flipBit_length (b : Bytes) (i j : Nat) : (flipBit b i j).length = b.length := List.length_set

/-- Settles O9: a framed packet verifies, so with one bit flipped it does not, and its length is as it was. -/
theorem singleBitErrorsAreDetected : Obligations.SingleBitErrorsAreDetected := by
  intro op seq payload d h i j hi hj
  obtain ⟨⟨-, -, hlen⟩, rfl⟩ := encodePacket_eq_some_iff.mp h
  have hlength : (frame op (BitVec.ofNat 32 seq) payload).length = hdrLen + payload.length := packetBytes_length ..
  apply decodePacket_corrupt
  case hmin => rw [flipBit_length, hlength]; exact Nat.le_add_right ..
  case hmax => rw [flipBit_length, hlength]; exact Nat.add_le_add_left hlen hdrLen
  case hcorrupt => exact verify_flipBit (verify_frame ..) hi hj

end Sys2Proof.Machine

end

section

namespace Sys2Proof.Machine

open Sys2Proof

/-! ## SERVE and the sender's receive prologue (R151, R152) -/

theorem sServe_starts {s : State} (hs : s.snd.state = .idle ∨ s.snd.state = .terminated) :
    sServe s = .ok (respond .ok (s.mapS fun _ => { Sender.reset with state := .awaitReq })) := by
  unfold sServe
  rcases hs with hs | hs <;> simp only [hs] <;> rfl

theorem sServe_busy {s : State} (hs : senderActive s) : sServe s = .ok (respond .busy s) := by
  unfold sServe
  rcases hs with hs | hs | hs | hs <;> simp only [hs]

/-- Settles O22: the two answers of SERVE, in the states that take it and in those that are busy. -/
theorem serveStartsASessionOrIsBusy : Obligations.ServeStartsASessionOrIsBusy :=
  fun _ => ⟨fun hs => congrArg outcome (sServe_starts hs), fun hs => congrArg outcome (sServe_busy hs)⟩

theorem sReceive_dropped {s : State} {d : Datagram} {c : DropClass} (hd : decodePacket d = .error c) :
    sReceive d s = .ok (raiseDrop .sender c s) := by
  simp only [sReceive, hd]

/-- R152, R150: RX of a datagram that decodes does what its packet's own instruction does. -/
theorem exec_rxS_packet {s : State} {d : Datagram} {p : Packet} {i : Instr} (hd : decodePacket d = .ok p)
    (hi : packetInstr .sender p = some i) : exec (.rxS d) s = exec i s := by
  have hrx : exec (.rxS d) s = outcome (sReceive d s) := rfl
  unfold packetInstr at hi
  split at hi <;> cases hi
  all_goals
    next hop =>
      simp only [hrx, sReceive, hd, hop]
      rfl

/-- Settles O24: the drop is the class alone, and a packet that decodes has an opcode of R96. -/
theorem senderDropsWhatDoesNotDecode : Obligations.SenderDropsWhatDoesNotDecode := by
  refine fun s d => ⟨fun c hd => congrArg outcome (sReceive_dropped hd), fun p hd => ?_⟩
  obtain ⟨-, hop, rfl⟩ := decodePacket_eq_ok hd
  obtain ⟨i, hi⟩ := Option.ne_none_iff_exists'.mp (packetInstr_isSome (e := .sender) (p := packetFields d) hop)
  exact ⟨i, hi, exec_rxS_packet hd hi⟩

/-! ## Packets the sender's state does not handle (R153) -/

section

variable {s : State}

theorem sTakeFileRequest_ignored {path : Bytes} (hs : s.snd.state ≠ .awaitReq) :
    sTakeFileRequest path s = .ok (ignoreS s) := by
  unfold sTakeFileRequest
  split
  case h_1 h => exact absurd h hs
  all_goals rfl

theorem sTakeAck_ignored {next : SeqNo} (hs : s.snd.state ≠ .sendWait) : sTakeAck next s = .ok (ignoreS s) := by
  unfold sTakeAck
  split
  case h_1 h => exact absurd h hs
  all_goals rfl

theorem sTakeDoneAck_ignored (hsend : s.snd.state ≠ .sendWait) (hdone : s.snd.state ≠ .doneWait) :
    sTakeDoneAck s = .ok (ignoreS s) := by
  unfold sTakeDoneAck
  split
  case h_1 h => exact absurd h hsend
  case h_2 h => exact absurd h hdone
  all_goals rfl

theorem sTakeFileNotFoundAck_ignored (hsend : s.snd.state ≠ .sendWait) (hdone : s.snd.state ≠ .doneWait)
    (hmissing : s.snd.state ≠ .missing) : sTakeFileNotFoundAck s = .ok (ignoreS s) := by
  unfold sTakeFileNotFoundAck
  split
  case h_1 h => exact absurd h hsend
  case h_2 h => exact absurd h hdone
  case h_3 h => exact absurd h hmissing
  all_goals rfl

end

/-- Settles O26: each handler ignores its packet outside its own states, and three kinds have no handler. -/
theorem senderIgnoresUnhandledPackets : Obligations.SenderIgnoresUnhandledPackets := by
  intro s seq next b i h
  obtain ⟨hs, rfl⟩ | ⟨hs, rfl⟩ | ⟨hsend, hdone, rfl⟩ | ⟨hsend, hdone, hmissing, rfl⟩ | rfl | rfl | rfl := h
  · exact congrArg outcome (sTakeFileRequest_ignored hs)
  · exact congrArg outcome (sTakeAck_ignored hs)
  · exact congrArg outcome (sTakeDoneAck_ignored hsend hdone)
  · exact congrArg outcome (sTakeFileNotFoundAck_ignored hsend hdone hmissing)
  all_goals rfl

/-! ## The ends of the sender's session (R163 to R168) -/

section

variable {s : State}

theorem sTakeDoneAck_doneWait (hs : s.snd.state = .doneWait) :
    sTakeDoneAck s = .ok (terminateS .success (clearTimeouts .sender s)) := by
  simp only [sTakeDoneAck, hs]

theorem sTakeDoneAck_sendWait (hs : s.snd.state = .sendWait) :
    sTakeDoneAck s = .ok (endDefensively (clearTimeouts .sender s)) := by
  simp only [sTakeDoneAck, hs]

theorem sTakeFileNotFoundAck_missing (hs : s.snd.state = .missing) :
    sTakeFileNotFoundAck s = .ok (terminateS .missingAcked (clearTimeouts .sender s)) := by
  simp only [sTakeFileNotFoundAck, hs]

theorem sTakeFileNotFoundAck_sending (hs : s.snd.state = .sendWait ∨ s.snd.state = .doneWait) :
    sTakeFileNotFoundAck s = .ok (endDefensively (clearTimeouts .sender s)) := by
  rcases hs with hs | hs <;> simp only [sTakeFileNotFoundAck, hs]

theorem sTimeout_sendWait (hs : s.snd.state = .sendWait) : sTimeout s = timeoutSendWait s := by
  simp only [sTimeout, hs]

theorem sTimeout_doneWait (hs : s.snd.state = .doneWait) : sTimeout s = .ok (terminateS .doneUnacked s) := by
  simp only [sTimeout, hs]

/-- R154, R168: the sender's FILE_NOT_FOUND is inside Encode's domain. -/
theorem emitPacket_fileNotFound (s : State) :
    emitPacket .sender 0x03#8 0 [] s = .ok (s.output (.tx .sender (frame 0x03#8 0#32 []))) :=
  emitPacket_eq_ok.mpr ⟨⟨by decide, by decide, by decide⟩, rfl⟩

theorem sTimeout_missing_again (hs : s.snd.state = .missing) (hn : s.snd.nfCount = 0#1) :
    sTimeout s =
      .ok ((s.output (.tx .sender (frame 0x03#8 0#32 []))).mapS fun x => { x with nfCount := 1#1 }) := by
  simp only [sTimeout, hs, timeoutMissing, if_pos hn, emitPacket_fileNotFound]

theorem sTimeout_missing_ends (hs : s.snd.state = .missing) (hn : s.snd.nfCount ≠ 0#1) :
    sTimeout s = .ok (terminateS .missingUnacked s) := by
  simp only [sTimeout, hs, timeoutMissing, if_neg hn]

end

/-- Settles O31: TIMEOUT there is the session's end alone. -/
theorem senderTimeoutAfterDoneEndsTheSession : Obligations.SenderTimeoutAfterDoneEndsTheSession :=
  fun _ hs => congrArg outcome (sTimeout_doneWait hs)

/-- Settles O32: the two values of `nfCount`. -/
theorem senderTimeoutInMissing : Obligations.SenderTimeoutInMissing := by
  refine fun s hs => ⟨fun hn => congrArg outcome (sTimeout_missing_again hs hn), fun hn => ?_⟩
  exact congrArg outcome (sTimeout_missing_ends hs (by rw [hn]; decide))

/-- Settles O33: the sequence number is no argument of the handler. -/
theorem doneAckEndsTheSenderSession : Obligations.DoneAckEndsTheSenderSession :=
  fun _ _ => ⟨fun hs => congrArg outcome (sTakeDoneAck_doneWait hs),
    fun hs => congrArg outcome (sTakeDoneAck_sendWait hs)⟩

/-- Settles O34: the end in `S_MISSING`, and the defensive one of both sending states. -/
theorem fileNotFoundAckEndsTheSenderSession : Obligations.FileNotFoundAckEndsTheSenderSession :=
  fun _ _ => ⟨fun hs => congrArg outcome (sTakeFileNotFoundAck_missing hs),
    fun hs => congrArg outcome (sTakeFileNotFoundAck_sending hs)⟩

end Sys2Proof.Machine

end

section

namespace Sys2Proof.Machine

open Sys2Proof

/-! ## A file opened, a window sent (R154 to R162, R169) -/

/-- R157: the register and the packets that `SendOrFinish` leaves, field by field. -/
theorem sendOrFinish_eq_fields {s : State} {img : Bytes} (ho : FileOpened s.snd img) (hb : WindowBuffered s.snd img) :
    sendOrFinish s = .ok { s with
      snd := { s.snd with
        state := if maxSequenceOf img.length < (s.snd.windowStart.toNat : Int) then .doneWait else .sendWait }
      out := s.out ++
        if maxSequenceOf img.length < (s.snd.windowStart.toNat : Int) then
          [.tx .sender (frame 0x05#8 s.snd.windowStart [])]
        else dataBurst img s.snd.windowStart.toNat (windowCount s.snd.windowStart.toNat s.snd.windowEnd.toInt) } := by
  rw [sendOrFinish_eq ho hb]
  split_ifs <;> rfl

/-- R155, R169: only the empty file has no chunk 0. -/
theorem maxSequenceOf_neg_iff {img : Bytes} : maxSequenceOf img.length < 0 ↔ img = [] := by
  rw [← List.length_eq_zero_iff, maxSequenceOf, ceilDiv]
  simp only [chunkSize]
  omega

/-- R62: a path with no file, or with one above `FILE_SIZE_MAX`, is not found. -/
theorem fileOpen_eq_none {s : State} {path : Bytes}
    (h : s.cfg.fs.lookup path = none ∨ ∃ img, s.cfg.fs.lookup path = some img ∧ fileSizeMax < img.length) :
    fileOpen s path = none := by
  refine Option.eq_none_iff_forall_ne_some.mpr fun img hopen => ?_
  obtain ⟨hlookup, hlen⟩ := fileOpen_eq_some.mp hopen
  obtain hnone | ⟨big, hbig, hlong⟩ := h
  · simp [hlookup] at hnone
  · cases hlookup.symm.trans hbig
    exact hlong.not_ge hlen

theorem takeRequest_missing {s : State} {path : Bytes} (h : fileOpen s path = none) :
    takeRequest path s = .ok ((s.output (.tx .sender (frame 0x03#8 0#32 []))).mapS fun x =>
      { x with nfCount := 0#1, state := .missing }) := by
  simp only [takeRequest, h, emitPacket_fileNotFound]

/-- R155, R156: the sender with `img` opened and its first window filled. -/
def fileFilled (img : Bytes) (s : State) : State :=
  (openFile img s).mapS fun x => { x with
    wbuf := chunkSlots img 0 (windowCount 0 (windowEndOf 0 (maxSequenceOf img.length))) ++
      x.wbuf.drop (windowCount 0 (windowEndOf 0 (maxSequenceOf img.length))) }

section

variable {s : State} {img : Bytes} (hl : img.length ≤ fileSizeMax)
include hl

theorem fileFilled_opened : FileOpened (fileFilled img s).snd img := ⟨hl, rfl, rfl, rfl⟩

theorem fileFilled_windowEnd :
    (fileFilled img s).snd.windowEnd.toInt = windowEndOf 0 (maxSequenceOf img.length) :=
  toInt_ofInt_bound (windowEndOf_range hl)

theorem fileFilled_buffered : WindowBuffered (fileFilled img s).snd img :=
  windowBuffered_of_chunkSlots (by rw [fileFilled_windowEnd hl]; rfl)

theorem fill_openFile_eq : fill (openFile img s) = .ok (fileFilled img s) := by
  have hopened : FileOpened (openFile img s).snd img := ⟨hl, rfl, rfl, rfl⟩
  have hbounded : WindowBounded (openFile img s).snd img := windowBounded_of_eq hl rfl
  rw [fill_eq hopened hbounded, hbounded]
  rfl

end

/-- R154 to R157: a request for a file of the store. -/
theorem takeRequest_opened {s : State} {path img : Bytes} (h : fileOpen s path = some img) :
    takeRequest path s = .ok { fileFilled img s with
      snd := { (fileFilled img s).snd with state := if img = [] then .doneWait else .sendWait }
      out := s.out ++
        if img = [] then [.tx .sender (frame 0x05#8 0#32 [])]
        else dataBurst img 0 (windowCount 0 (windowEndOf 0 (maxSequenceOf img.length))) } := by
  have hl := fileOpen_length_le h
  have hstart : (fileFilled img s).snd.windowStart = 0#32 := rfl
  have hzero : ((0#32).toNat : Int) = 0 := rfl
  simp only [takeRequest, h, fill_openFile_eq hl, sendOrFinish_eq_fields (fileFilled_opened hl) (fileFilled_buffered hl),
    fileFilled_windowEnd hl, hstart, hzero, maxSequenceOf_neg_iff]
  rfl

theorem sTakeFileRequest_awaitReq {s : State} {path : Bytes} (hs : s.snd.state = .awaitReq) :
    sTakeFileRequest path s = takeRequest path (clearTimeouts .sender s) := by
  simp only [sTakeFileRequest, hs]

/-- Settles O27: `takeRequest` on both answers of the file store, the count of timeouts cleared before. -/
theorem fileRequestOpensOrReportsMissing : Obligations.FileRequestOpensOrReportsMissing := by
  intro s seq path hs
  have htake : exec (.fileRequest .sender seq path) s = outcome (takeRequest path (clearTimeouts .sender s)) :=
    congrArg outcome (sTakeFileRequest_awaitReq hs)
  constructor
  · intro hmissing
    exact htake.trans (congrArg outcome (takeRequest_missing (s := clearTimeouts .sender s) (fileOpen_eq_none hmissing)))
  · intro img hlookup hl
    have hopen : fileOpen (clearTimeouts .sender s) path = some img := fileOpen_eq_some.mpr ⟨hlookup, hl⟩
    exact htake.trans (congrArg outcome (takeRequest_opened hopen))

/-- Settles O28: the empty file's case of O27, whose bounds are the 33-bit -1. -/
theorem emptyFileIsDoneAtOnce : Obligations.EmptyFileIsDoneAtOnce := by
  intro s seq path hs hlookup
  obtain ⟨-, hopen⟩ := fileRequestOpensOrReportsMissing s seq path hs
  have hend : (BitVec.ofInt 33 (windowEndOf 0 (maxSequenceOf ([] : Bytes).length))).toInt = -1 := by decide
  exact ⟨_, _, hopen [] hlookup (by decide), rfl, rfl, by decide, hend, rfl⟩

/-! ## The window advanced or resent (R159 to R162) -/

theorem sTakeAck_sendWait {s : State} {next : SeqNo} (hs : s.snd.state = .sendWait) :
    sTakeAck next s = takeAck next (clearTimeouts .sender s) := by
  simp only [sTakeAck, hs]

/-- R159, R160: the sender with its window moved to `next` and refilled. -/
def windowMoved (img : Bytes) (next : SeqNo) (s : State) : State :=
  s.mapS fun x => { x with
    windowStart := next
    windowEnd := BitVec.ofInt 33 (windowEndOf next.toNat (maxSequenceOf img.length))
    wbuf := chunkSlots img next.toNat (windowCount next.toNat (windowEndOf next.toNat (maxSequenceOf img.length))) ++
      List.replicate (5 - windowCount next.toNat (windowEndOf next.toNat (maxSequenceOf img.length))) none }

theorem windowMoved_windowEnd {s : State} {img : Bytes} {next : SeqNo} (hl : img.length ≤ fileSizeMax) :
    (windowMoved img next s).snd.windowEnd.toInt = windowEndOf next.toNat (maxSequenceOf img.length) :=
  toInt_ofInt_bound (windowEndOf_range hl)

/-- R159, R160: an ACK above the window's start. -/
theorem takeAck_advances {s : State} {img : Bytes} {next : SeqNo} (ho : FileOpened s.snd img)
    (hw : WindowBuffered s.snd img) (hn : s.snd.windowStart.toNat < next.toNat) :
    takeAck next s = .ok { windowMoved img next s with
      snd := { (windowMoved img next s).snd with
        state := if maxSequenceOf img.length < (next.toNat : Int) then .doneWait else .sendWait }
      out := s.out ++
        if maxSequenceOf img.length < (next.toNat : Int) then [.tx .sender (frame 0x05#8 next [])]
        else dataBurst img next.toNat
          (windowCount next.toNat (windowEndOf next.toNat (maxSequenceOf img.length))) } := by
  have hend := windowMoved_windowEnd (s := s) (next := next) ho.size_le
  have hmax : readMaxSequence s = .ok (maxSequenceOf img.length) := by
    simp only [readMaxSequence, ho.maxSequence_eq, readReg, ho.maxSequence_toInt]
  have hrefill : refill s.snd.windowStart.toNat s.snd.windowEnd.toInt
      (advanceWindow next (maxSequenceOf img.length) s) = .ok (windowMoved img next s) := refill_eq ho hw hn
  have hopened : FileOpened (windowMoved img next s).snd img := ho.congr rfl rfl rfl
  have hbuffered : WindowBuffered (windowMoved img next s).snd img :=
    windowBuffered_of_chunkSlots (by rw [hend]; rfl)
  simp only [takeAck, if_pos hn, hmax, hrefill, sendOrFinish_eq_fields hopened hbuffered, hend]
  rfl

/-- R159: an ACK at or below it. -/
theorem takeAck_resends {s : State} {next : SeqNo} (hn : next.toNat ≤ s.snd.windowStart.toNat) :
    takeAck next s = transmitWindow s := if_neg hn.not_gt

/-- Settles O29: `takeAck` above and not above the window's start, the count of timeouts cleared before. -/
theorem ackAdvancesOrResendsTheWindow : Obligations.AckAdvancesOrResendsTheWindow := by
  intro s seq next img hs ho _ hw
  have htake : exec (.ack .sender seq next) s = outcome (takeAck next (clearTimeouts .sender s)) :=
    congrArg outcome (sTakeAck_sendWait hs)
  have ho' : FileOpened (clearTimeouts .sender s).snd img := ho.congr rfl rfl rfl
  have hw' : WindowBuffered (clearTimeouts .sender s).snd img := hw
  constructor
  · intro hn
    exact htake.trans (congrArg outcome (takeAck_advances ho' hw' hn))
  · intro hn
    exact htake.trans (congrArg outcome ((takeAck_resends (s := clearTimeouts .sender s) hn).trans (transmitWindow_eq hw')))

/-- R162: the cap is reached where there is one and the count is not below it. -/
theorem capReached_iff {cap : Option Nat} {n : Nat} : capReached cap n = true ↔ ∃ m, cap = some m ∧ m ≤ n := by
  cases cap <;> simp [capReached]

/-- Settles O30: the timeout counted, the session ends at the cap, and `transmitWindow` runs below it. -/
theorem senderTimeoutResendsTheWindow : Obligations.SenderTimeoutResendsTheWindow := by
  intro s img hs hw
  have htimeout : exec .timeoutS s = outcome (timeoutSendWait s) := congrArg outcome (sTimeout_sendWait hs)
  have hw' : WindowBuffered (countTimeoutS s).1.snd img := hw
  constructor
  · intro hcap
    exact htimeout.trans (congrArg outcome (if_pos (capReached_iff.mpr hcap)))
  · intro hcap
    have hbelow : ¬ (countTimeoutS s).2 = true := fun h =>
      have ⟨n, hn, hle⟩ := capReached_iff.mp h
      (hcap n hn).not_ge hle
    exact htimeout.trans (congrArg outcome ((if_neg hbelow).trans (transmitWindow_eq hw')))

end Sys2Proof.Machine

end

section

namespace Sys2Proof.Machine

open Sys2Proof

/-! ## The datagrams of the sender's transmit port (R45, R73, R170) -/

@[simp] theorem txPort_outputs (e : Engine) (s : State) (os : List Output) :
    txPort e (s.outputs os) = txPort e s ++ os.filterMap (txOf e) :=
  List.filterMap_append

@[simp] theorem txPort_output (e : Engine) (s : State) (o : Output) :
    txPort e (s.output o) = txPort e s ++ [o].filterMap (txOf e) :=
  txPort_outputs e s [o]

@[simp] theorem txPort_mapS (e : Engine) (s : State) (f : Sender → Sender) : txPort e (s.mapS f) = txPort e s := rfl

@[simp] theorem txPort_mapR (e : Engine) (s : State) (f : Receiver → Receiver) : txPort e (s.mapR f) = txPort e s := rfl

/-- R76: an engine's transmit port takes that engine's datagrams alone. -/
@[simp] theorem txOf_tx (e e' : Engine) (d : Datagram) : txOf e (.tx e' d) = if e' = e then some d else none := rfl

/-! The receiver's procedures emit nothing on the sender's port. -/

@[simp] theorem txPort_sender_flushed (s : State) : txPort .sender (flushed s) = txPort .sender s := by
  have hwrites (slots : List (Option Slot)) : (slots.map writeOf).filterMap (txOf .sender) = [] := by
    simp [writeOf, txOf]
  simp only [txPort, flushed, List.filterMap_append, hwrites, List.append_nil]

@[simp] theorem txPort_sender_acknowledged (s : State) : txPort .sender (acknowledged s) = txPort .sender s := by
  have hack : txPort .sender (acknowledged s) = txPort .sender (flushed s) := by simp [txPort, acknowledged]
  rw [hack, txPort_sender_flushed]

@[simp] theorem txPort_sender_batchCounted (s : State) : txPort .sender (batchCounted s) = txPort .sender s := by
  unfold batchCounted
  split_ifs
  · exact txPort_sender_acknowledged s
  · rfl
  · rfl

@[simp] theorem txPort_sender_acceptData (seq : SeqNo) (payload : Bytes) (s : State) :
    txPort .sender (acceptData seq payload s) = txPort .sender s := by
  obtain ⟨c, h⟩ | ⟨-, -, h⟩ := acceptData_cases seq payload s <;> rw [h] <;> rfl

@[simp] theorem txPort_sender_terminateR (st : EndStatus) (r : RState) (s : State) :
    txPort .sender (terminateR st r s) = txPort .sender s := by
  simp [terminateR, txOf]

/-- R73, R76: a step of the receiver engine puts nothing on the sender's transmit port. -/
theorem ReceiverStep.txPort_sender {i : Instr} {s t : State} (h : ReceiverStep i s t) :
    txPort .sender t = txPort .sender s := by
  cases h with
  | drop c => exact txPort_sender_batchCounted _
  | data seq payload =>
    exact (txPort_sender_batchCounted _).trans (txPort_sender_acceptData seq payload (takingData s))
  | done seq st => simp [doneTaken, clearTimeouts, txOf]
  | fileNotFound seq => simp [fileNotFoundTaken, clearTimeouts, txOf]
  | timeoutExhausts => simp [exhaustR, countTimeoutR, txOf]
  | timeoutRequests path => simp [countTimeoutR]
  | timeoutWaits => rfl
  | timeoutAcks => exact txPort_sender_acknowledged _
  | drainEnd => exact txPort_sender_acknowledged s
  | fetchRefused => simp [respond, txOf]
  | fetchStarts path => simp [fetchTaken, startFetch, respond, txOf]

/-! What the sender engine puts there. -/

/-- R154, R157, R158: a datagram the sender may emit with the registers `x`: a chunk of the open file, or a packet
of no payload, FILE_NOT_FOUND or DONE. -/
inductive SenderDatagram (x : Sender) : Datagram → Prop where
  | chunk (img : Bytes) (k : Nat) (ho : FileOpened x img) (hk : (k : Int) ≤ maxSequenceOf img.length) :
      SenderDatagram x (frame 0x01#8 (BitVec.ofNat 32 k) (fileChunk img k))
  | fileNotFound : SenderDatagram x (frame 0x03#8 0#32 [])
  | done (seq : SeqNo) : SenderDatagram x (frame 0x05#8 seq [])

/-- A step whose new datagrams on the sender's transmit port are all `SenderDatagram`s of the state it reaches. -/
def Transmits (s t : State) : Prop :=
  ∃ ds, txPort .sender t = txPort .sender s ++ ds ∧ ∀ d ∈ ds, SenderDatagram t.snd d

theorem Transmits.of_txPort_eq {s t : State} (h : txPort .sender t = txPort .sender s) : Transmits s t :=
  ⟨[], by rw [h, List.append_nil], nofun⟩

/-- Register writes before the step that emits. -/
theorem Transmits.after {s u t : State} (h : Transmits u t) (hu : txPort .sender u = txPort .sender s) :
    Transmits s t := by
  obtain ⟨ds, hds, hemits⟩ := h
  exact ⟨ds, by rw [hds, hu], hemits⟩

theorem Transmits.single {s t : State} {d : Datagram} (h : txPort .sender t = txPort .sender s ++ [d])
    (hd : SenderDatagram t.snd d) : Transmits s t :=
  ⟨[d], h, fun _ hmem => List.mem_singleton.mp hmem ▸ hd⟩

/-- R158: a burst of chunks up to the last one of the open file. -/
theorem Transmits.burst {s t : State} {img : Bytes} {start n : Nat}
    (h : txPort .sender t = txPort .sender s ++ (dataBurst img start n).filterMap (txOf .sender))
    (ho : FileOpened t.snd img) (hn : ∀ k < n, ((start + k : Nat) : Int) ≤ maxSequenceOf img.length) :
    Transmits s t := by
  refine ⟨_, h, fun d hd => ?_⟩
  simp only [dataBurst, List.filterMap_map, List.mem_filterMap, List.mem_range, Function.comp_apply, txOf_tx, if_true,
    Option.some.injEq] at hd
  obtain ⟨k, hk, rfl⟩ := hd
  exact .chunk img _ ho (hn k hk)

/-- R50, R170: a window reaches no chunk past the last. -/
theorem WindowBounded.le_maxSequence {x : Sender} {img : Bytes} (h : WindowBounded x img) {k : Nat}
    (hk : k < windowCount x.windowStart.toNat x.windowEnd.toInt) :
    ((x.windowStart.toNat + k : Nat) : Int) ≤ maxSequenceOf img.length := by
  unfold WindowBounded at h
  simp only [h, windowCount, windowEndOf] at hk
  omega

/-- R158: a ready window is sent as chunks of its file. -/
theorem transmitWindow_transmits {s t : State} {img : Bytes} (hr : WindowReady s.snd img)
    (h : transmitWindow s = .ok t) : Transmits s t := by
  rw [transmitWindow_eq hr.buffered] at h
  cases h
  exact .burst (txPort_outputs ..) hr.opened fun _ => hr.bounded.le_maxSequence

/-- R157: `SendOrFinish` on a ready window sends DONE, or the chunks of the window. -/
theorem sendOrFinish_transmits {s t : State} {img : Bytes} (hr : WindowReady s.snd img)
    (h : sendOrFinish s = .ok t) : Transmits s t := by
  rw [sendOrFinish_eq hr.opened hr.buffered] at h
  split_ifs at h <;> cases h
  · exact .single (txPort_output ..) (.done _)
  · exact .burst (txPort_outputs ..) (hr.opened.congr rfl rfl rfl) fun _ => hr.bounded.le_maxSequence

/-- R154, R170: a step of the sender engine emits FILE_NOT_FOUND, DONE and chunks of the open file, and no other
datagram. -/
theorem SenderStep.transmits {i : Instr} {s t : State} (h : SenderStep i s t) (hinv : SenderInv s.cfg s.snd) :
    Transmits s t := by
  cases h with
  | drop c => exact .of_txPort_eq rfl
  | requestMissing => exact .single (txPort_output ..) .fileNotFound
  | requestOpened path img u t hs ho hf ht =>
    obtain ⟨-, hst⟩ := hinv.initial (.inl hs)
    obtain ⟨hlen, hslots, -, -⟩ := hinv
    obtain ⟨hready, -⟩ := fill_openFile_ready (s := clearTimeouts .sender s) (fileOpen_length_le ho) hlen hslots hst hf
    have hport : txPort .sender u = txPort .sender s := by
      obtain ⟨wbuf, rfl⟩ := fill_eq_ok hf
      rfl
    exact (sendOrFinish_transmits hready ht).after hport
  | ackAdvances next m u t hs hn hm hr ht =>
    obtain ⟨img, hready, -⟩ := hinv.sendWait hs
    cases readMaxSequence_eq_ok hready.opened hm
    obtain ⟨hready', -⟩ := refill_ready (s := clearTimeouts .sender s) (hready.set_count 0) hn hr
    have hport : txPort .sender u = txPort .sender s := by
      obtain ⟨wbuf, rfl⟩ := refill_eq_ok hr
      rfl
    exact (sendOrFinish_transmits hready' ht).after hport
  | ackResends t hs ht =>
    obtain ⟨img, hready, -⟩ := hinv.sendWait hs
    exact transmitWindow_transmits (s := clearTimeouts .sender s) (hready.set_count 0) ht
  | timeoutResends t hs hc ht =>
    obtain ⟨img, hready, -⟩ := hinv.sendWait hs
    exact transmitWindow_transmits (s := (countTimeoutS s).1) (hready.set_count _) ht
  | timeoutMissingAgain => exact .single (txPort_output ..) .fileNotFound
  | endsDefensively | doneAcked | missingAcked | timeoutExhausts | timeoutAfterDone | timeoutMissingEnds
  | serveBusy | serveStarts => exact .of_txPort_eq ((txPort_output ..).trans (List.append_nil _))

/-- R73, R170: so does every instruction, of either engine. -/
theorem exec_transmits {i : Instr} {s t : State} (hinv : BlockInv s) (h : exec i s = .next t) : Transmits s t := by
  obtain ⟨-, hsnd, -⟩ := hinv
  obtain ⟨-, rfl⟩ | hs | hr := exec_cases h
  · exact .of_txPort_eq rfl
  · exact hs.transmits hsnd
  · exact .of_txPort_eq hr.txPort_sender

/-- R103: a framed packet that decodes gives back its own fields. -/
theorem decodePacket_frame_eq {op : Byte} {seq : SeqNo} {payload : Bytes} {p : Packet}
    (h : decodePacket (frame op seq payload) = .ok p) : p = framedPacket op seq payload := by
  obtain ⟨-, -, rfl⟩ := decodePacket_eq_ok h
  exact packetFields_frame op seq payload

/-- R158, R170: a DATA among the sender's datagrams is a chunk of the open file, numbered as such. -/
theorem SenderDatagram.data {x : Sender} {d : Datagram} {p : Packet} (h : SenderDatagram x d)
    (hd : decodePacket d = .ok p) (hop : p.op = 0x01#8) :
    ∃ img, FileOpened x img ∧ (p.seq.toNat : Int) ≤ maxSequenceOf img.length ∧
      p.payload = fileChunk img p.seq.toNat := by
  cases h with
  | chunk img k ho hk =>
    obtain rfl := decodePacket_frame_eq hd
    have hlast := (maxSequenceOf_range ho.size_le).2
    have hseq : (BitVec.ofNat 32 k).toNat = k := by
      rw [BitVec.toNat_ofNat]
      exact Nat.mod_eq_of_lt (by omega)
    exact ⟨img, ho, by simpa only [framedPacket, hseq] using hk, by simp only [framedPacket, hseq]⟩
  | fileNotFound | done =>
    obtain rfl := decodePacket_frame_eq hd
    exact absurd hop (by simp [framedPacket])

/-- Settles O55: what a step adds to the sender's transmit port is a `SenderDatagram`, and R25's bound on the last
chunk's number keeps 2^32 - 1 out. -/
theorem emittedDataIsTheFile : Obligations.EmittedDataIsTheFile := by
  intro i s t os d p hinv h hout hmem hd hop
  obtain ⟨ds, hds, hemits⟩ := exec_transmits hinv h
  have hos : os.filterMap (txOf .sender) = ds := by
    simpa only [txPort, hout, List.filterMap_append, List.append_cancel_left_eq] using hds
  have hmem' : d ∈ ds := hos ▸ List.mem_filterMap.mpr ⟨_, hmem, rfl⟩
  obtain ⟨img, ho, hle, hpayload⟩ := (hemits d hmem').data hd hop
  have hlast := (maxSequenceOf_range ho.size_le).2
  refine ⟨img, _, ho.file_eq, ho.maxSequence_eq, ?_, ?_, ?_, hpayload⟩
  · rwa [ho.maxSequence_toInt]
  · rwa [ho.maxSequence_toInt]
  · intro hmax
    simp only [hmax, BitVec.toNat_ofNat] at hle
    omega

end Sys2Proof.Machine

end

section

namespace Sys2Proof.Machine

open Sys2Proof

/-! ## What the receiver's handlers answer (R200 to R226) -/

/-- R202, R220: a handler that answers is followed by the batch epilogue, which always completes. -/
@[simp] theorem thenBatchCount_ok (s : State) : thenBatchCount (.ok s) = .ok (batchCounted s) := batchCount_eq s

/-- R203: a kind no receiver state handles is ignored, and counted toward the batch. -/
theorem rTakeUnexpected_eq (s : State) : rTakeUnexpected s = .ok (batchCounted (ignoreR s)) := batchCount_eq _

/-- R203, R220: outside a session there is no batch for an ignored packet to count toward. -/
theorem batchCounted_ignoreR {s : State} (hs : ¬ receiverActive s) : batchCounted (ignoreR s) = ignoreR s :=
  batchCounted_eq_self fun h => hs (.inr h)

section

variable {s : State} {seq : SeqNo}

/-- R206, R210: DATA in a session, whether it is the first one or not. -/
theorem rHandleData_active {payload : Bytes} (hs : receiverActive s) :
    rHandleData seq payload s = acceptData seq payload (takingData s) := by
  unfold rHandleData
  rcases hs with hs | hs
  · simp only [hs, takingData]
  · have he : takingData s = clearTimeouts .receiver s := by
      simp only [takingData, State.mapR, clearTimeouts, ← hs]
    simp only [hs, he]

theorem rHandleData_ignored {payload : Bytes} (hs : ¬ receiverActive s) : rHandleData seq payload s = ignoreR s := by
  unfold rHandleData
  split
  case h_1 h => exact absurd (.inl h) hs
  case h_2 h => exact absurd (.inr h) hs
  all_goals rfl

theorem rTakeData_active {payload : Bytes} (hs : receiverActive s) :
    rTakeData seq payload s = .ok (batchCounted (acceptData seq payload (takingData s))) := by
  rw [rTakeData, rHandleData_active hs, thenBatchCount_ok]

theorem rTakeData_ignored {payload : Bytes} (hs : ¬ receiverActive s) :
    rTakeData seq payload s = .ok (ignoreR s) := by
  rw [rTakeData, rHandleData_ignored hs, thenBatchCount_ok, batchCounted_ignoreR hs]

/-- R207: the status with which DONE `seq` ends the session. -/
def doneStatus (seq : SeqNo) (s : State) : EndStatus :=
  if seq.toNat ≤ (flushed s).rcv.writeCursor.toNat then .success else .incomplete

/-- R207: DONE in a session always completes, and ends it: there is no batch left to count toward. -/
theorem rTakeDone_active (hs : receiverActive s) : rTakeDone seq s = .ok (doneTaken seq (doneStatus seq s) s) := by
  have hhandle : rHandleDone seq s = takeDone seq (clearTimeouts .receiver s) := by
    rcases hs with hs | hs <;> simp only [rHandleDone, hs]
  rw [rTakeDone, hhandle, takeDone, emitPacket_eq_ok.mpr ⟨⟨by decide, seq.isLt, by decide⟩, rfl⟩]
  simp only [flush_eq, thenBatchCount_ok, BitVec.ofNat_toNat, BitVec.setWidth_eq]
  rw [batchCounted_eq_self (by simp)]
  rfl

theorem rTakeDone_ignored (hs : ¬ receiverActive s) : rTakeDone seq s = .ok (ignoreR s) := by
  have hhandle : rHandleDone seq s = .ok (ignoreR s) := by
    unfold rHandleDone
    split
    case h_1 h => exact absurd (.inl h) hs
    case h_2 h => exact absurd (.inr h) hs
    all_goals rfl
  rw [rTakeDone, hhandle, thenBatchCount_ok, batchCounted_ignoreR hs]

/-- R208. -/
theorem rTakeFileNotFound_active (hs : receiverActive s) :
    rTakeFileNotFound seq s = .ok (fileNotFoundTaken seq s) := by
  have hhandle : rHandleFileNotFound seq s = takeFileNotFound seq (clearTimeouts .receiver s) := by
    rcases hs with hs | hs <;> simp only [rHandleFileNotFound, hs]
  rw [rTakeFileNotFound, hhandle, takeFileNotFound_eq]

theorem rTakeFileNotFound_ignored (hs : ¬ receiverActive s) : rTakeFileNotFound seq s = .ok (ignoreR s) := by
  have hhandle : rHandleFileNotFound seq s = .ok (ignoreR s) := by
    unfold rHandleFileNotFound
    split
    case h_1 h => exact absurd (.inl h) hs
    case h_2 h => exact absurd (.inr h) hs
    all_goals rfl
  rw [rTakeFileNotFound, hhandle, thenBatchCount_ok, batchCounted_ignoreR hs]

end

/-! ## The receive prologue (R202) and the packets no rule handles (R203) -/

/-- R202, R220: a datagram that does not decode is dropped, and counted toward the batch. -/
theorem rReceive_dropped {s : State} {d : Datagram} {c : DropClass} (hd : decodePacket d = .error c) :
    rReceive d s = .ok (batchCounted (raiseDrop .receiver c s)) := by
  simp only [rReceive, hd, thenBatchCount_ok]

/-- R202, R200: RX of a datagram that decodes does what its packet's own instruction does. -/
theorem exec_rxR_packet {s : State} {d : Datagram} {p : Packet} {i : Instr} (hd : decodePacket d = .ok p)
    (hi : packetInstr .receiver p = some i) : exec (.rxR d) s = exec i s := by
  have hrx : exec (.rxR d) s = outcome (rReceive d s) := rfl
  unfold packetInstr at hi
  split at hi <;> cases hi
  all_goals
    next hop =>
      simp only [hrx, rReceive, hd, hop]
      rfl

/-- Settles O25: the drop is the class alone and then the epilogue, and a packet that decodes has an opcode of R96. -/
theorem receiverDropsAndCountsWhatDoesNotDecode : Obligations.ReceiverDropsAndCountsWhatDoesNotDecode := by
  refine fun s d => ⟨fun c hd => congrArg outcome (rReceive_dropped hd), fun p hd => ?_⟩
  obtain ⟨-, hop, rfl⟩ := decodePacket_eq_ok hd
  obtain ⟨i, hi⟩ := Option.ne_none_iff_exists'.mp (packetInstr_isSome (e := .receiver) (p := packetFields d) hop)
  exact ⟨i, hi, exec_rxR_packet hd hi⟩

/-- Settles O35: four kinds have no handler at all, and the three others none outside a session. -/
theorem receiverIgnoresUnhandledPackets : Obligations.ReceiverIgnoresUnhandledPackets := by
  refine fun s seq next b i => ⟨fun hi => ?_, fun hs hi => ?_⟩
  · obtain rfl | rfl | rfl | rfl := hi
    all_goals exact congrArg outcome (rTakeUnexpected_eq s)
  · obtain rfl | rfl | rfl := hi
    · exact congrArg outcome (rTakeData_ignored hs)
    · exact congrArg outcome (rTakeDone_ignored hs)
    · exact congrArg outcome (rTakeFileNotFound_ignored hs)

/-! ## FETCH (R201) -/

section

variable {s : State} {path : Bytes}

theorem rFetch_busy (hs : receiverActive s) : rFetch path s = .ok (respond .busy s) := by
  rcases hs with hs | hs <;> simp only [rFetch, hs]

theorem rFetch_idle (hs : ¬ receiverActive s) :
    rFetch path s = if chunkSize < path.length then .ok (respond .badPath s) else takeFetch path s := by
  unfold rFetch
  split
  case h_1 h => exact absurd (.inl h) hs
  case h_2 h => exact absurd (.inr h) hs
  all_goals rfl

/-- R201: a FETCH taken leaves the request, then the open, then the response. -/
theorem fetchTaken_out (path : Bytes) (s : State) :
    (fetchTaken path s).out = s.out ++ [.tx .receiver (frame 0x00#8 0#32 path), .sinkOpen path, .cmdResp .ok] := by
  simp [fetchTaken, startFetch]

end

/-- Settles O23: the session state decides between the busy answer and the two answers to a path. -/
theorem fetchStartsASessionOrIsRefused : Obligations.FetchStartsASessionOrIsRefused := by
  refine fun s path => ⟨fun hs => ?_, fun hs hlong => ?_, fun hs hp => ?_⟩
  · exact congrArg outcome (rFetch_busy hs)
  · exact congrArg outcome ((rFetch_idle hs).trans (if_pos hlong))
  · have htaken : rFetch path s = .ok (fetchTaken path s) :=
      (rFetch_idle hs).trans ((if_neg (Nat.not_lt.mpr hp)).trans (takeFetch_eq s hp))
    change outcome (rFetch path s) = _
    rw [htaken, ← fetchTaken_out]
    rfl

/-! ## DATA in a session (R206, R210, R211) -/

section

variable {s : State} {seq : SeqNo} {payload : Bytes}

/-- R211: sequence 2^32 - 1 is discarded. -/
theorem acceptData_max (h : seq = 0xFFFFFFFF#32) : acceptData seq payload s = raiseDrop .receiver .capacity s :=
  if_pos h

/-- R211: a packet beyond the reorder buffer is discarded. -/
theorem acceptData_beyond (hmax : seq ≠ 0xFFFFFFFF#32)
    (hfar : s.rcv.writeCursor.toNat + s.cfg.rbDepth ≤ seq.toNat) :
    acceptData seq payload s = raiseDrop .receiver .capacity s := by
  rw [acceptData, if_neg hmax, if_neg (by omega), if_pos (by omega)]

/-- R211, R43: a packet already in the seen-set is a duplicate, below the cursor or in its slot. -/
theorem acceptData_seen (hmax : seq ≠ 0xFFFFFFFF#32) (hlen : s.rcv.rb.length = s.cfg.rbDepth)
    (hseen : seen s seq.toNat = true) : acceptData seq payload s = raiseDrop .receiver .duplicate s := by
  rw [acceptData, if_neg hmax]
  obtain hlt | ⟨k, slot, hk, hslot⟩ := seen_eq_true.mp hseen
  · rw [if_pos hlt]
  · have hlt := (List.getElem?_eq_some_iff.mp hslot).1
    have hindex : seq.toNat - s.rcv.writeCursor.toNat = k := by omega
    rw [if_neg (by omega), if_neg (by omega), if_pos (by simp [hindex, List.getD_eq_getElem?_getD, hslot])]

/-- R211: any other packet fills its slot. -/
theorem acceptData_fills (hmax : seq ≠ 0xFFFFFFFF#32) (hnew : seen s seq.toNat = false)
    (hnear : seq.toNat < s.rcv.writeCursor.toNat + s.cfg.rbDepth) :
    acceptData seq payload s = s.mapR fun x =>
      { x with rb := x.rb.set (seq.toNat - x.writeCursor.toNat) (some (Slot.ofBytes payload)) } := by
  unfold seen at hnew
  split_ifs at hnew with hlt
  rw [acceptData, if_neg hmax, if_neg hlt, if_neg (by omega), if_neg (Bool.eq_false_iff.mp hnew)]

end

/-- Settles O36: taking a chunk writes the receiver's registers alone, and each clause is one case of R211. -/
theorem dataFillsItsSlotOnce : Obligations.DataFillsItsSlotOnce := by
  intro s seq payload hs hlen
  have hstate : acceptData seq payload (takingData s) =
      { s with rcv := (acceptData seq payload (takingData s)).rcv } := by
    obtain ⟨c, h⟩ | ⟨-, -, h⟩ := acceptData_cases seq payload (takingData s) <;> rw [h] <;> rfl
  refine ⟨(acceptData seq payload (takingData s)).rcv, ?_, fun hmax => ?_, fun hmax hseen => ?_,
    fun hmax hfar => ?_, fun hmax hnew hnear => ?_⟩
  · rw [← hstate]
    exact congrArg outcome (rTakeData_active hs)
  · rw [acceptData_max hmax]
    rfl
  · rw [acceptData_seen (s := takingData s) hmax hlen hseen]
    rfl
  · rw [acceptData_beyond (s := takingData s) hmax hfar]
    rfl
  · rw [acceptData_fills (s := takingData s) hmax hnew hnear]
    rfl

/-! ## The ends of the receiver's session (R207, R208) -/

/-- R209: the session's last output and its END, in that order. -/
theorem terminateR_output (st : EndStatus) (r : RState) (o : Output) (s : State) :
    terminateR st r (s.output o) = { s with
      rcv := { s.rcv with status := st, state := r }
      out := s.out ++ [o, .endSession .receiver st] } := by
  simp only [terminateR, State.output, State.mapR, List.append_assoc]
  rfl

/-- Settles O37: DONE_ACK and the flush touch different registers, so the status is decided by the cursor after both. -/
theorem doneFlushesAndClosesTheSink : Obligations.DoneFlushesAndClosesTheSink := by
  rintro s _ seq _ hs rfl rfl
  have hdone : exec (.done .receiver seq) s = .next (doneTaken seq (doneStatus seq s) s) :=
    congrArg outcome (rTakeDone_active hs)
  rw [hdone, doneTaken, terminateR_output]
  rfl

/-- Settles O38: by what FILE_NOT_FOUND leaves in a session. -/
theorem fileNotFoundAbortsTheSink : Obligations.FileNotFoundAbortsTheSink := by
  intro s seq hs
  have hend : exec (.fileNotFound .receiver seq) s = .next (fileNotFoundTaken seq s) :=
    congrArg outcome (rTakeFileNotFound_active hs)
  have hout : (fileNotFoundTaken seq s).out =
      s.out ++ [.tx .receiver (frame 0x04#8 seq []), .sinkAbort, .endSession .receiver .fileMissing] := by
    simp [fileNotFoundTaken]
  rw [hend, ← hout]
  rfl

/-! ## DRAIN_END and TIMEOUT (R205, R221, R225) -/

/-- Settles O39: the ACK step always completes. -/
theorem drainEndFlushesAndAcknowledges : Obligations.DrainEndFlushesAndAcknowledges := by
  intro s hs hb
  have hdrain : rDrainEnd s = .ok (acknowledged s) := by
    simp only [rDrainEnd, hs, if_pos hb, ackStep_eq]
  exact congrArg outcome hdrain

/-- R226: below the cap a timeout does not end the session. -/
theorem countTimeoutR_below {s : State} (h : ∀ n, s.cfg.retryCap = some n → s.rcv.toCount + 1 < n) :
    ¬ (countTimeoutR s).2 = true := by
  intro hcap
  obtain ⟨n, hn, hle⟩ := capReached_iff.mp hcap
  exact (h n hn).not_ge hle

theorem countTimeoutR_atCap {s : State} (h : ∃ n, s.cfg.retryCap = some n ∧ n ≤ s.rcv.toCount + 1) :
    (countTimeoutR s).2 = true :=
  capReached_iff.mpr h

/-- Settles O40: the count decides, and below the cap `reqCount`. -/
theorem receiverTimeoutResendsTheRequestOnce : Obligations.ReceiverTimeoutResendsTheRequestOnce := by
  intro s path hs hpath hlen
  have htimeout : exec .timeoutR s = outcome (timeoutReqSent s) := by
    change outcome (rTimeout s) = _
    simp only [rTimeout, hs]
  have hrequest : sendRequest (countTimeoutR s).1 =
      .ok ((countTimeoutR s).1.output (.tx .receiver (frame 0x00#8 0#32 path))) := by
    have hpath' : (countTimeoutR s).1.rcv.path = some path := hpath
    simp only [sendRequest, hpath', readReg]
    exact emitPacket_eq_ok.mpr ⟨⟨by decide, by decide, hlen⟩, rfl⟩
  refine ⟨fun hcap => ?_, fun hcap hreq => ?_, fun hcap hreq => ?_⟩
  · rw [htimeout, timeoutReqSent, if_pos (countTimeoutR_atCap hcap), exhaustR, terminateR_output]
    rfl
  · rw [htimeout, timeoutReqSent, if_neg (countTimeoutR_below hcap), if_pos hreq, hrequest]
    rfl
  · rw [htimeout, timeoutReqSent, if_neg (countTimeoutR_below hcap), if_neg (by rw [hreq]; decide)]
    rfl

/-- Settles O41: the count decides between the end and the ACK step. -/
theorem receiverTimeoutAcknowledgesAgain : Obligations.ReceiverTimeoutAcknowledgesAgain := by
  intro s hs
  have htimeout : exec .timeoutR s = outcome (timeoutReceiving s) := by
    change outcome (rTimeout s) = _
    simp only [rTimeout, hs]
  refine ⟨fun hcap => ?_, fun hcap => ?_⟩
  · rw [htimeout, timeoutReceiving, if_pos (countTimeoutR_atCap hcap), exhaustR, terminateR_output]
    rfl
  · rw [htimeout, timeoutReceiving, if_neg (countTimeoutR_below hcap), ackStep_eq]
    rfl

end Sys2Proof.Machine

end

section

namespace Sys2Proof.Machine

open Sys2Proof

/-! ## What the sender engine outputs (R73, R106)

A step of the sender engine outputs nothing of the receiver's: no datagram on its port and no sink operation. -/

/-- R106: the outputs that a step of the sender engine may make. -/
def senderOutput : Output → Bool
  | .tx e _ | .endSession e _ => decide (e = .sender)
  | .cmdResp _ => true
  | .sinkOpen _ | .sinkWrite _ | .sinkClose _ | .sinkAbort => false

/-- A step whose new outputs are all the sender's. -/
def SenderOutputs (s t : State) : Prop := ∃ os, t.out = s.out ++ os ∧ ∀ o ∈ os, senderOutput o = true

theorem SenderOutputs.of_out_eq {s t : State} (h : t.out = s.out) : SenderOutputs s t :=
  ⟨[], by rw [h, List.append_nil], nofun⟩

theorem SenderOutputs.single {s t : State} {o : Output} (h : t.out = s.out ++ [o]) (ho : senderOutput o = true) :
    SenderOutputs s t :=
  ⟨[o], h, fun _ hmem => List.mem_singleton.mp hmem ▸ ho⟩

/-- Register writes before the step that outputs. -/
theorem SenderOutputs.after {s u t : State} (h : SenderOutputs u t) (hu : u.out = s.out) : SenderOutputs s t := by
  obtain ⟨os, hos, hall⟩ := h
  exact ⟨os, by rw [hos, hu], hall⟩

/-- R158: the packet of a window slot is a datagram of the sender. -/
theorem windowPacket_senderOutput {s : State} {k : Nat} {o : Output} (h : windowPacket s k = .ok o) :
    senderOutput o = true := by
  unfold windowPacket at h
  split at h
  · cases h
  · split at h <;> cases h
    rfl

theorem transmitWindow_senderOutputs {s t : State} (h : transmitWindow s = .ok t) : SenderOutputs s t := by
  unfold transmitWindow at h
  split at h <;> cases h
  next os hos =>
    refine ⟨os, rfl, fun o ho => ?_⟩
    obtain ⟨k, hk, rfl⟩ := List.getElem_of_mem ho
    have hpackets := collect_eq_ok.mp hos
    exact windowPacket_senderOutput (hpackets.get (hpackets.length_eq ▸ hk) hk)

theorem sendOrFinish_senderOutputs {s t : State} (h : sendOrFinish s = .ok t) : SenderOutputs s t := by
  unfold sendOrFinish at h
  split at h
  · cases h
  · split_ifs at h
    · split at h
      · cases h
      · next he =>
        obtain ⟨-, rfl⟩ := emitPacket_eq_ok.mp he
        cases h
        exact .single rfl rfl
    · split at h
      · cases h
      · next he =>
        cases h
        have hwindow := transmitWindow_senderOutputs he
        exact hwindow

/-- R73: the outputs of a step of the sender engine. -/
theorem SenderStep.outputs {i : Instr} {s t : State} (h : SenderStep i s t) : SenderOutputs s t := by
  cases h with
  | drop c => exact .of_out_eq rfl
  | requestOpened path img u t hs ho hf ht =>
    obtain ⟨wbuf, rfl⟩ := fill_eq_ok hf
    exact (sendOrFinish_senderOutputs ht).after rfl
  | ackAdvances next m u t hs hn hm hr ht =>
    obtain ⟨wbuf, rfl⟩ := refill_eq_ok hr
    exact (sendOrFinish_senderOutputs ht).after rfl
  | ackResends t hs ht => exact (transmitWindow_senderOutputs ht).after rfl
  | timeoutResends t hs hc ht => exact (transmitWindow_senderOutputs ht).after rfl
  | requestMissing | endsDefensively | doneAcked | missingAcked | timeoutExhausts | timeoutAfterDone
  | timeoutMissingAgain | timeoutMissingEnds | serveBusy | serveStarts => exact .single rfl rfl

/-- R76: none of them is a datagram of the receiver. -/
theorem SenderOutputs.txPort_receiver {s t : State} (h : SenderOutputs s t) :
    txPort .receiver t = txPort .receiver s := by
  obtain ⟨os, hos, hall⟩ := h
  have hnone : os.filterMap (txOf .receiver) = [] := by
    refine List.filterMap_eq_nil_iff.mpr fun o ho => ?_
    have hsender := hall o ho
    cases o <;> simp_all [senderOutput, txOf]
  rw [txPort, hos, List.filterMap_append, hnone, List.append_nil, txPort]

/-! ## The datagrams of the receiver's transmit port (R45, R227) -/

/-- R52, R223: after a flush the cursor's own number is not in the seen-set. -/
theorem seen_flushed_writeCursor (s : State) : seen (flushed s) (flushed s).rcv.writeCursor.toNat = false := by
  have hcount := countValid_flushed s
  have hslot : ((flushed s).rcv.rb.getD 0 none).isSome = false := by
    rcases hrb : (flushed s).rcv.rb with _ | ⟨_ | slot, rest⟩
    · rfl
    · rfl
    · simp [hrb, countValid] at hcount
  simpa only [seen, lt_irrefl, if_false, Nat.sub_self] using hslot

/-- R201, R207, R208, R222: a datagram the receiver may emit in a step that reaches `t`. An ACK carries the cursor,
which is not in the seen-set. -/
inductive ReceiverDatagram (t : State) : Datagram → Prop where
  | fileRequest (path : Bytes) : ReceiverDatagram t (frame 0x00#8 0#32 path)
  | ack (hnew : seen t t.rcv.writeCursor.toNat = false) : ReceiverDatagram t (ackPacket t.rcv.writeCursor)
  | fileNotFoundAck (seq : SeqNo) : ReceiverDatagram t (frame 0x04#8 seq [])
  | doneAck (seq : SeqNo) : ReceiverDatagram t (frame 0x06#8 seq [])

/-- A step whose new datagrams on the receiver's transmit port are all `ReceiverDatagram`s of the state it reaches. -/
def ReceiverTransmits (s t : State) : Prop :=
  ∃ ds, txPort .receiver t = txPort .receiver s ++ ds ∧ ∀ d ∈ ds, ReceiverDatagram t d

theorem ReceiverTransmits.of_txPort_eq {s t : State} (h : txPort .receiver t = txPort .receiver s) :
    ReceiverTransmits s t :=
  ⟨[], by rw [h, List.append_nil], nofun⟩

/-- Register writes before the step that emits. -/
theorem ReceiverTransmits.after {s u t : State} (h : ReceiverTransmits u t)
    (hu : txPort .receiver u = txPort .receiver s) : ReceiverTransmits s t := by
  obtain ⟨ds, hds, hemits⟩ := h
  exact ⟨ds, by rw [hds, hu], hemits⟩

theorem ReceiverTransmits.single {s t : State} {d : Datagram} (h : txPort .receiver t = txPort .receiver s ++ [d])
    (hd : ReceiverDatagram t d) : ReceiverTransmits s t :=
  ⟨[d], h, fun _ hmem => List.mem_singleton.mp hmem ▸ hd⟩

@[simp] theorem txPort_terminateR (e : Engine) (st : EndStatus) (r : RState) (s : State) :
    txPort e (terminateR st r s) = txPort e s := by
  simp [terminateR, txOf]

/-- R223: a flush writes to the sink alone. -/
@[simp] theorem txPort_flushed (e : Engine) (s : State) : txPort e (flushed s) = txPort e s := by
  have hwrites (slots : List (Option Slot)) : (slots.map writeOf).filterMap (txOf e) = [] := by
    simp [writeOf, txOf]
  simp only [txPort, flushed, List.filterMap_append, hwrites, List.append_nil]

@[simp] theorem txPort_acceptData (e : Engine) (seq : SeqNo) (payload : Bytes) (s : State) :
    txPort e (acceptData seq payload s) = txPort e s := by
  obtain ⟨c, h⟩ | ⟨-, -, h⟩ := acceptData_cases seq payload s <;> rw [h] <;> rfl

/-- R222, R227: the ACK step emits one ACK, of the cursor that the flush leaves. -/
theorem acknowledged_transmits (s : State) : ReceiverTransmits s (acknowledged s) := by
  refine .single (d := ackPacket (flushed s).rcv.writeCursor) ?_ (.ack (seen_flushed_writeCursor s))
  rw [← txPort_flushed .receiver s]
  exact txPort_output .receiver (flushed s) _

theorem batchCounted_transmits (s : State) : ReceiverTransmits s (batchCounted s) := by
  unfold batchCounted
  split_ifs
  · exact acknowledged_transmits s
  · exact .of_txPort_eq rfl
  · exact .of_txPort_eq rfl

/-- R227: a step of the receiver engine emits the four kinds of `ReceiverDatagram` and no other. -/
theorem ReceiverStep.transmits {i : Instr} {s t : State} (h : ReceiverStep i s t) : ReceiverTransmits s t := by
  cases h with
  | drop c => exact (batchCounted_transmits _).after rfl
  | data seq payload => exact (batchCounted_transmits _).after (txPort_acceptData _ seq payload (takingData s))
  | done seq st => exact .single (by simp [doneTaken, clearTimeouts, txOf]) (.doneAck seq)
  | fileNotFound seq => exact .single (by simp [fileNotFoundTaken, clearTimeouts, txOf]) (.fileNotFoundAck seq)
  | timeoutExhausts => exact .of_txPort_eq (by simp [exhaustR, countTimeoutR, txOf])
  | timeoutRequests path => exact .single (by simp [countTimeoutR]) (.fileRequest path)
  | timeoutWaits => exact .of_txPort_eq rfl
  | timeoutAcks => exact (acknowledged_transmits _).after rfl
  | drainEnd => exact acknowledged_transmits s
  | fetchRefused => exact .of_txPort_eq (by simp [respond, txOf])
  | fetchStarts path => exact .single (by simp [fetchTaken, startFetch, respond, txOf]) (.fileRequest path)

/-- R73, R227: so does every instruction, of either engine. -/
theorem exec_receiverTransmits {i : Instr} {s t : State} (h : exec i s = .next t) : ReceiverTransmits s t := by
  obtain ⟨-, rfl⟩ | hs | hr := exec_cases h
  · exact .of_txPort_eq rfl
  · exact .of_txPort_eq hs.outputs.txPort_receiver
  · exact hr.transmits

/-- R99, R227: an ACK among the receiver's datagrams carries the cursor in both places. -/
theorem ReceiverDatagram.ack_carries {t : State} {d : Datagram} {p : Packet} (h : ReceiverDatagram t d)
    (hd : decodePacket d = .ok p) (hop : p.op = 0x02#8) :
    ackNext p = t.rcv.writeCursor ∧ p.seq = t.rcv.writeCursor ∧ seen t t.rcv.writeCursor.toNat = false := by
  cases h with
  | ack hnew =>
    obtain rfl := decodePacket_frame_eq hd
    exact ⟨be32_putBE32 _, rfl, hnew⟩
  | fileRequest | fileNotFoundAck | doneAck =>
    obtain rfl := decodePacket_frame_eq hd
    exact absurd hop (by simp [framedPacket])

/-- Settles O42: what a step adds to the receiver's transmit port is a `ReceiverDatagram`, whose one ACK is R222's. -/
theorem everyAckCarriesTheCursor : Obligations.EveryAckCarriesTheCursor := by
  intro i s t os d p h hout hmem hd hop
  obtain ⟨ds, hds, hemits⟩ := exec_receiverTransmits h
  have hos : os.filterMap (txOf .receiver) = ds := by
    simpa only [txPort, hout, List.filterMap_append, List.append_cancel_left_eq] using hds
  have hmem' : d ∈ ds := hos ▸ List.mem_filterMap.mpr ⟨_, hmem, rfl⟩
  exact (hemits d hmem').ack_carries hd hop

end Sys2Proof.Machine

end

section

namespace Sys2Proof.Machine

open Sys2Proof

/-! ## The chunks of a file (R64, R228) -/

/-- R19, R64: the first `n` chunks are the file's first `n * 1015` bytes. -/
theorem chunksBelow_eq_take (img : Bytes) (n : Nat) : chunksBelow img n = img.take (n * chunkSize) := by
  induction n with
  | zero => simp [chunksBelow]
  | succ n ih =>
    have hchunk : fileChunk img n = (img.drop (n * chunkSize)).take chunkSize := by
      rw [fileChunk, slice, chunkOffset, chunkLength, ← List.length_drop, ← List.take_eq_take_min]
    rw [chunksBelow, List.range_succ, List.flatMap_append, ← chunksBelow, ih, List.flatMap_singleton, hchunk,
      Nat.succ_mul, List.take_add]

/-- R25: the chunks up to the last one are the whole file, and there is nothing past them. -/
theorem chunksBelow_eq_self {img : Bytes} {n : Nat} (h : maxSequenceOf img.length < (n : Int)) :
    chunksBelow img n = img := by
  rw [chunksBelow_eq_take]
  refine List.take_of_length_le ?_
  unfold maxSequenceOf ceilDiv at h
  simp only [chunkSize] at *
  omega

theorem chunksBelow_add (img : Bytes) (start n : Nat) :
    chunksBelow img (start + n) =
      chunksBelow img start ++ (List.range n).flatMap fun k => fileChunk img (start + k) := by
  rw [chunksBelow, List.range_add, List.flatMap_append, List.flatMap_map, ← chunksBelow]

/-- R211: no chunk of a file is numbered 2^32 - 1. -/
theorem chunk_ne_max {img : Bytes} {seq : SeqNo} (hl : img.length ≤ fileSizeMax)
    (hle : (seq.toNat : Int) ≤ maxSequenceOf img.length) : seq ≠ 0xFFFFFFFF#32 := by
  rintro rfl
  have hlast := (maxSequenceOf_range hl).2
  simp only [BitVec.toNat_ofNat] at hle
  omega

/-! ## The sink (R65) -/

@[simp] theorem sinkLog_output (s : State) (o : Output) : sinkLog (s.output o) = sinkAfter (sinkLog s) o :=
  List.foldl_append

@[simp] theorem sinkLog_terminateR (st : EndStatus) (r : RState) (s : State) :
    sinkLog (terminateR st r s) = sinkLog s :=
  sinkLog_output _ _

/-- R73: no output of the sender engine is an operation on the sink. -/
theorem SenderOutputs.sinkLog_eq {s t : State} (h : SenderOutputs s t) : sinkLog t = sinkLog s := by
  obtain ⟨os, hos, hall⟩ := h
  have hfold (v : SinkView) : os.foldl sinkAfter v = v := by
    clear hos
    induction os generalizing v with
    | nil => rfl
    | cons o os ih =>
      have hsender := hall o List.mem_cons_self
      have hnone : sinkAfter v o = v := by cases o <;> simp_all [senderOutput, sinkAfter]
      rw [List.foldl_cons, hnone, ih fun o ho => hall o (List.mem_cons_of_mem _ ho)]
  rw [sinkLog, hos, List.foldl_append, hfold, sinkLog]

/-- R223: a flush writes the leading valid slots to the sink, in order. -/
theorem sinkLog_flushed (s : State) :
    sinkLog (flushed s) = ((validPrefix s.rcv.rb).map writeOf).foldl sinkAfter (sinkLog s) :=
  List.foldl_append

/-- R65, R223: writing slots that hold chunks appends those chunks. -/
theorem sinkAfter_chunkSlots (path bytes img : Bytes) (start n : Nat) :
    ((chunkSlots img start n).map writeOf).foldl sinkAfter (.opened path bytes) =
      .opened path (bytes ++ (List.range n).flatMap fun k => fileChunk img (start + k)) := by
  have hwrite (k : Nat) : writeOf (some (Slot.ofBytes (fileChunk img k))) = .sinkWrite (fileChunk img k) := by
    simp [writeOf, Slot.bytes_ofBytes (fileChunk_length_le img k)]
  induction n with
  | zero => simp [chunkSlots]
  | succ n ih =>
    rw [chunkSlots] at ih ⊢
    simp only [List.range_succ, List.map_append, List.foldl_append, ih, List.map_singleton, List.foldl_cons,
      List.foldl_nil, hwrite, sinkAfter, List.flatMap_append, List.flatMap_singleton, List.append_assoc]

/-! ## Steps that leave the reorder buffer and the sink (R43, R52) -/

/-- A step that leaves what `Reassembled` and the seen-set speak of: the cursor, the slots and the sink. -/
structure BufferKept (s t : State) : Prop where
  writeCursor_eq : t.rcv.writeCursor = s.rcv.writeCursor
  rb_eq : t.rcv.rb = s.rcv.rb
  sink_eq : sinkLog t = sinkLog s

theorem BufferKept.trans {s t u : State} (h : BufferKept s t) (h' : BufferKept t u) : BufferKept s u where
  writeCursor_eq := h'.writeCursor_eq.trans h.writeCursor_eq
  rb_eq := h'.rb_eq.trans h.rb_eq
  sink_eq := h'.sink_eq.trans h.sink_eq

theorem BufferKept.seen_eq {s t : State} (h : BufferKept s t) (n : Nat) : seen t n = seen s n := by
  rw [seen, seen, h.writeCursor_eq, h.rb_eq]

theorem BufferKept.reassembled {s t : State} {path img : Bytes} (h : BufferKept s t) (hr : Reassembled path img s) :
    Reassembled path img t := by
  unfold Reassembled
  rw [h.sink_eq, h.writeCursor_eq, h.rb_eq]
  exact hr

/-- R223: a flush depends on the cursor, the slots and the sink alone. -/
theorem BufferKept.flushed {s t : State} (h : BufferKept s t) : BufferKept (flushed s) (flushed t) where
  writeCursor_eq := by simp only [Machine.flushed, h.writeCursor_eq, h.rb_eq]
  rb_eq := by simp only [Machine.flushed, h.rb_eq]
  sink_eq := by rw [sinkLog_flushed, sinkLog_flushed, h.rb_eq, h.sink_eq]

theorem BufferKept.raiseDrop (c : DropClass) (s : State) : BufferKept s (raiseDrop .receiver c s) := ⟨rfl, rfl, rfl⟩

theorem BufferKept.clearTimeouts (s : State) : BufferKept s (clearTimeouts .receiver s) := ⟨rfl, rfl, rfl⟩

theorem BufferKept.takingData (s : State) : BufferKept s (takingData s) := ⟨rfl, rfl, rfl⟩

theorem BufferKept.countTimeout (s : State) : BufferKept s (countTimeoutR s).1 := ⟨rfl, rfl, rfl⟩

theorem BufferKept.respond (c : CmdCode) (s : State) : BufferKept s (respond c s) := ⟨rfl, rfl, sinkLog_output _ _⟩

/-- R15: a datagram sent is no operation on the sink. -/
theorem BufferKept.transmit (e : Engine) (d : Datagram) (s : State) : BufferKept s (s.output (.tx e d)) :=
  ⟨rfl, rfl, sinkLog_output _ _⟩

/-- R73: a step of the sender engine. -/
theorem SenderStep.bufferKept {i : Instr} {s t : State} (h : SenderStep i s t) : BufferKept s t where
  writeCursor_eq := by rw [h.frame.rcv_eq]
  rb_eq := by rw [h.frame.rcv_eq]
  sink_eq := h.outputs.sinkLog_eq

/-- R222: beyond the flush the ACK step leaves the buffer and the sink. -/
theorem acknowledged_bufferKept (s : State) : BufferKept (flushed s) (acknowledged s) :=
  ⟨rfl, rfl, sinkLog_output (flushed s) _⟩

/-- A step that puts nothing into the reorder buffer, but may flush it. -/
def BufferFlushed (s t : State) : Prop := BufferKept s t ∨ BufferKept (flushed s) t

/-- Register writes before the flush. -/
theorem BufferFlushed.after {s u t : State} (h : BufferFlushed u t) (hu : BufferKept s u) : BufferFlushed s t :=
  h.imp hu.trans hu.flushed.trans

/-- R220: the batch epilogue. -/
theorem batchCounted_bufferFlushed (s : State) : BufferFlushed s (batchCounted s) := by
  unfold batchCounted
  split_ifs
  · exact .inr (acknowledged_bufferKept s)
  · exact .inl ⟨rfl, rfl, rfl⟩
  · exact .inl ⟨rfl, rfl, rfl⟩

/-- R43, R48: a flush changes nothing of the seen-set. -/
theorem BufferFlushed.seen_eq {s t : State} (h : BufferFlushed s t) (hmax : SlotsBelowMax s.rcv) (n : Nat) :
    seen t n = seen s n := by
  obtain hkept | hflushed := h
  · exact hkept.seen_eq n
  · rw [hflushed.seen_eq, seen_flushed hmax]

/-- R228: where every valid slot holds its chunk, the slots a flush writes are the chunks from the cursor on. -/
theorem Reassembled.validPrefix_eq {s : State} {path img : Bytes} (h : Reassembled path img s) :
    validPrefix s.rcv.rb = chunkSlots img s.rcv.writeCursor.toNat (validPrefix s.rcv.rb).length := by
  obtain ⟨-, hslots⟩ := h
  refine List.ext_getElem (by simp [chunkSlots]) fun k hk _ => ?_
  obtain ⟨slot, hslot⟩ := validPrefix_get hk
  have hvalid : validPrefix s.rcv.rb <+: s.rcv.rb := List.takeWhile_prefix _
  have hget : (validPrefix s.rcv.rb)[k] = some slot := by
    rw [hvalid.getElem hk]
    exact (List.getElem?_eq_some_iff.mp hslot).2
  simp [hget, (hslots k slot hslot).1, chunkSlots]

/-- R223, R228: a flush writes the chunks it moves the cursor past. -/
theorem Reassembled.flushed {s : State} {path img : Bytes} (h : Reassembled path img s) (hmax : SlotsBelowMax s.rcv) :
    Reassembled path img (flushed s) := by
  have hvalid := h.validPrefix_eq
  obtain ⟨hsink, hslots⟩ := h
  refine ⟨?_, fun k slot hk => ?_⟩
  · rw [sinkLog_flushed, hsink, hvalid, sinkAfter_chunkSlots, ← chunksBelow_add, flushed_writeCursor hmax]
  · have hslot := hslots _ slot (flushed_get hk)
    rwa [flushed_writeCursor hmax, Nat.add_assoc, Nat.add_comm _ k]

/-- R35, R211: the invariant keeps a flush from carrying the cursor past 2^32 - 1. -/
theorem BlockInv.slotsBelowMax {s : State} (h : BlockInv s) : SlotsBelowMax s.rcv := by
  obtain ⟨-, -, hrcv⟩ := h
  exact hrcv.slotsBelowMax

theorem BufferFlushed.reassembled {s t : State} {path img : Bytes} (h : BufferFlushed s t)
    (hmax : SlotsBelowMax s.rcv) (hr : Reassembled path img s) : Reassembled path img t := by
  obtain hkept | hflushed := h
  · exact hkept.reassembled hr
  · exact hflushed.reassembled (hr.flushed hmax)

/-! ## Instructions that store no chunk (R200, R203) -/

/-- R204: a request sent. -/
theorem sendRequest_bufferKept {s t : State} (h : sendRequest s = .ok t) : BufferKept s t := by
  unfold sendRequest at h
  split at h
  · cases h
  · obtain ⟨-, rfl⟩ := emitPacket_eq_ok.mp h
    exact .transmit _ _ s

/-- R205, R225: the session that reached the cap does not run on. -/
theorem not_receiverActive_exhaustR (s : State) : ¬ receiverActive (exhaustR s) := by
  simp [receiverActive, exhaustR]

theorem timeoutReqSent_bufferKept {s t : State} (h : timeoutReqSent s = .ok t) (ht : receiverActive t) :
    BufferKept s t := by
  have hcount := BufferKept.countTimeout s
  unfold timeoutReqSent at h
  split_ifs at h
  · cases h
    exact absurd ht (not_receiverActive_exhaustR _)
  · split at h <;> cases h
    next hsend =>
      have hsent := sendRequest_bufferKept hsend
      exact hcount.trans ⟨hsent.writeCursor_eq, hsent.rb_eq, hsent.sink_eq⟩
  · cases h
    exact hcount

theorem timeoutReceiving_bufferFlushed {s t : State} (h : timeoutReceiving s = .ok t) (ht : receiverActive t) :
    BufferFlushed s t := by
  unfold timeoutReceiving at h
  split_ifs at h
  · cases h
    exact absurd ht (not_receiverActive_exhaustR _)
  · rw [ackStep_eq] at h
    cases h
    exact .inr ((BufferKept.countTimeout s).flushed.trans (acknowledged_bufferKept _))

theorem rTimeout_bufferFlushed {s t : State} (h : rTimeout s = .ok t) (ht : receiverActive t) : BufferFlushed s t := by
  unfold rTimeout at h
  split at h
  case h_1 => exact .inl (timeoutReqSent_bufferKept h ht)
  case h_2 => exact timeoutReceiving_bufferFlushed h ht
  all_goals cases h

theorem rDrainEnd_bufferFlushed {s t : State} (h : rDrainEnd s = .ok t) : BufferFlushed s t := by
  unfold rDrainEnd at h
  split at h
  case h_1 =>
    split_ifs at h
    rw [ackStep_eq] at h
    cases h
    exact .inr (acknowledged_bufferKept s)
  all_goals cases h

/-- R201: FETCH in a session is answered CMD_BUSY. -/
theorem rFetch_bufferKept {path : Bytes} {s t : State} (hs : receiverActive s) (h : rFetch path s = .ok t) :
    BufferKept s t := by
  cases (rFetch_busy hs).symm.trans h
  exact .respond .busy s

/-- R202, R203: a datagram dropped, or a packet ignored. -/
theorem dropped_bufferFlushed (c : DropClass) (s : State) : BufferFlushed s (batchCounted (raiseDrop .receiver c s)) :=
  (batchCounted_bufferFlushed _).after (.raiseDrop c s)

theorem rTakeUnexpected_bufferFlushed {s t : State} (h : rTakeUnexpected s = .ok t) : BufferFlushed s t := by
  rw [rTakeUnexpected_eq] at h
  cases h
  exact dropped_bufferFlushed .ignored s

theorem rReceive_bufferFlushed {d : Datagram} {s t : State} (hd : (decodePacket d).isOk = false)
    (h : rReceive d s = .ok t) : BufferFlushed s t := by
  rcases hc : decodePacket d with c | p
  · rw [rReceive_dropped hc] at h
    cases h
    exact dropped_bufferFlushed c s
  · simp [hc, Except.isOk, Except.toBool] at hd

/-- R228: an instruction that stores no chunk, and leaves the session running, at most flushes the buffer. -/
theorem exec_storesNoChunk_bufferFlushed {i : Instr} {s t : State} (hi : storesNoChunk i = true)
    (hs : receiverActive s) (h : exec i s = .next t) (ht : receiverActive t) : BufferFlushed s t := by
  rcases he : engineOf i with _ | _ | _
  · cases i <;> cases he
    cases hi
  · exact .inl (exec_senderStep he h).bufferKept
  · cases i with
    | fileRequest e seq path => cases he; exact rTakeUnexpected_bufferFlushed (outcome_eq_next.mp h)
    | ack e seq next => cases he; exact rTakeUnexpected_bufferFlushed (outcome_eq_next.mp h)
    | fileNotFoundAck e seq => cases he; exact rTakeUnexpected_bufferFlushed (outcome_eq_next.mp h)
    | doneAck e seq => cases he; exact rTakeUnexpected_bufferFlushed (outcome_eq_next.mp h)
    | data e | done e | fileNotFound e => cases he; cases hi
    | rxR d =>
      have hd : (decodePacket d).isOk = false := by simpa [storesNoChunk] using hi
      exact rReceive_bufferFlushed hd (outcome_eq_next.mp h)
    | fetch path => exact .inl (rFetch_bufferKept hs (outcome_eq_next.mp h))
    | timeoutR => exact rTimeout_bufferFlushed (outcome_eq_next.mp h) ht
    | drainEnd => exact rDrainEnd_bufferFlushed (outcome_eq_next.mp h)
    | reset | serve | rxS | timeoutS => cases he

/-! ## Taking a chunk (R210, R211) -/

section

variable {s : State} {seq : SeqNo}

/-- R211, R228: a chunk of the file is dropped or goes to its own slot. -/
theorem Reassembled.acceptData {path img : Bytes} (h : Reassembled path img s)
    (hle : (seq.toNat : Int) ≤ maxSequenceOf img.length) :
    Reassembled path img (acceptData seq (fileChunk img seq.toNat) s) := by
  obtain ⟨c, he⟩ | ⟨-, hcursor, he⟩ := acceptData_cases seq (fileChunk img seq.toNat) s <;> rw [he]
  · exact (BufferKept.raiseDrop c s).reassembled h
  · obtain ⟨hsink, hslots⟩ := h
    refine ⟨hsink, fun k slot hk => ?_⟩
    simp only [mapR_rcv, List.getElem?_set] at hk ⊢
    split_ifs at hk with hindex
    · cases hk
      have hnumber : s.rcv.writeCursor.toNat + k = seq.toNat := by omega
      rw [hnumber]
      exact ⟨rfl, hle⟩
    · exact hslots k slot hk

/-- R43, R211: taking a chunk takes nothing out of the seen-set. -/
theorem seen_acceptData {payload : Bytes} {n : Nat} (h : seen s n = true) :
    seen (acceptData seq payload s) n = true := by
  obtain ⟨c, he⟩ | ⟨-, -, he⟩ := acceptData_cases seq payload s <;> rw [he]
  · exact h
  · rw [seen_eq_true] at h ⊢
    refine h.imp_right ?_
    rintro ⟨k, slot, hn, hk⟩
    have hlt := (List.getElem?_eq_some_iff.mp hk).1
    simp only [mapR_rcv, List.getElem?_set]
    by_cases hindex : seq.toNat - s.rcv.writeCursor.toNat = k
    · exact ⟨k, _, hn, by rw [if_pos hindex, if_pos (hindex ▸ hlt)]⟩
    · exact ⟨k, slot, hn, by rw [if_neg hindex, hk]⟩

/-- R43, R211: a packet inside the buffer is in the seen-set afterwards, a duplicate from before. -/
theorem seen_acceptData_self {payload : Bytes} (hmax : seq ≠ 0xFFFFFFFF#32) (hlen : s.rcv.rb.length = s.cfg.rbDepth)
    (hnear : seq.toNat < s.rcv.writeCursor.toNat + s.cfg.rbDepth) :
    seen (acceptData seq payload s) seq.toNat = true := by
  rcases hnew : seen s seq.toNat with _ | _
  · rw [acceptData_fills hmax hnew hnear]
    have hcursor : ¬ seq.toNat < s.rcv.writeCursor.toNat := fun hlt => by simp [seen, hlt] at hnew
    refine seen_eq_true.mpr (.inr ⟨seq.toNat - s.rcv.writeCursor.toNat, Slot.ofBytes payload, ?_, ?_⟩)
    · simp only [mapR_rcv]
      omega
    · exact List.getElem?_set_self (by omega)
  · exact seen_acceptData hnew

end

/-- R220: the batch epilogue leaves the session state. -/
theorem batchCounted_state (s : State) : (batchCounted s).rcv.state = s.rcv.state := by
  unfold batchCounted
  split_ifs <;> rfl

theorem acceptData_state (seq : SeqNo) (payload : Bytes) (s : State) :
    (acceptData seq payload s).rcv.state = s.rcv.state := by
  obtain ⟨c, he⟩ | ⟨-, -, he⟩ := acceptData_cases seq payload s <;> rw [he] <;> rfl

section

variable {s t : State} {path img payload : Bytes} {seq : SeqNo}

theorem exec_data_active (hs : receiverActive s) :
    exec (.data .receiver seq payload) s = .next (batchCounted (acceptData seq payload (takingData s))) :=
  congrArg outcome (rTakeData_active hs)

/-- R206, R210: DATA leaves a session running. -/
theorem receiverActive_data (hs : receiverActive s) (h : exec (.data .receiver seq payload) s = .next t) :
    receiverActive t := by
  cases (exec_data_active hs).symm.trans h
  refine .inr ?_
  rw [batchCounted_state, acceptData_state]
  rfl

/-- R220: the epilogue after a chunk taken at most flushes the buffer. -/
theorem seen_batchCounted_acceptData (hinv : BlockInv s) (n : Nat) :
    seen (batchCounted (acceptData seq payload (takingData s))) n = seen (acceptData seq payload (takingData s)) n := by
  have hmax : SlotsBelowMax (takingData s).rcv := hinv.slotsBelowMax
  exact (batchCounted_bufferFlushed _).seen_eq (acceptData_slotsBelowMax hmax) n

/-- R43, R48: DATA takes nothing out of the seen-set. -/
theorem seen_data (hinv : BlockInv s) (hs : receiverActive s) (h : exec (.data .receiver seq payload) s = .next t)
    {n : Nat} (hn : seen s n = true) : seen t n = true := by
  cases (exec_data_active hs).symm.trans h
  rw [seen_batchCounted_acceptData hinv]
  exact seen_acceptData (s := takingData s) hn

/-- R43, R211: DATA below `writeCursor + RB_DEPTH` enters the seen-set. -/
theorem seen_data_self (hinv : BlockInv s) (hs : receiverActive s) (hmax : seq ≠ 0xFFFFFFFF#32)
    (hnear : seq.toNat < s.rcv.writeCursor.toNat + s.cfg.rbDepth)
    (h : exec (.data .receiver seq payload) s = .next t) : seen t seq.toNat = true := by
  cases (exec_data_active hs).symm.trans h
  rw [seen_batchCounted_acceptData hinv]
  obtain ⟨-, -, hlen, -⟩ := hinv
  exact seen_acceptData_self (s := takingData s) hmax hlen hnear

/-- R228: a chunk of the file keeps the reassembly. -/
theorem Reassembled.data (hr : Reassembled path img s) (hinv : BlockInv s) (hs : receiverActive s)
    (hle : (seq.toNat : Int) ≤ maxSequenceOf img.length)
    (h : exec (.data .receiver seq (fileChunk img seq.toNat)) s = .next t) : Reassembled path img t := by
  cases (exec_data_active hs).symm.trans h
  have hmax : SlotsBelowMax (takingData s).rcv := hinv.slotsBelowMax
  have htaking : Reassembled path img (takingData s) := (BufferKept.takingData s).reassembled hr
  exact (batchCounted_bufferFlushed _).reassembled (acceptData_slotsBelowMax hmax) (htaking.acceptData hle)

/-! ## The end of the session (R207, R228) -/

/-- R43, R223: where every chunk is in the seen-set, a flush moves the cursor past the last one. -/
theorem maxSequence_lt_flushed_writeCursor (hmax : SlotsBelowMax s.rcv)
    (hall : ∀ n : Nat, (n : Int) ≤ maxSequenceOf img.length → seen s n = true) :
    maxSequenceOf img.length < ((flushed s).rcv.writeCursor.toNat : Int) := by
  by_contra hle
  have hseen := hall _ (Int.not_lt.mp hle)
  rw [← seen_flushed hmax, seen_flushed_writeCursor] at hseen
  cases hseen

theorem doneStatus_eq_success_iff :
    doneStatus seq s = .success ↔ seq.toNat ≤ (flushed s).rcv.writeCursor.toNat := by
  simp [doneStatus]

/-- R207: DONE closes the sink as the flush leaves it. -/
theorem sinkLog_doneTaken (st : EndStatus) :
    sinkLog (doneTaken seq st s) = sinkAfter (sinkLog (flushed s)) (.sinkClose st) := by
  have hkept : BufferKept s ((clearTimeouts .receiver s).output (.tx .receiver (frame 0x06#8 seq []))) :=
    (BufferKept.clearTimeouts s).trans (.transmit _ _ _)
  rw [doneTaken, sinkLog_terminateR, sinkLog_output, hkept.flushed.sink_eq]

/-- R228: a session that ends SUCCESS closes a sink that holds exactly the file. -/
theorem Reassembled.closed (hr : Reassembled path img s) (hmax : SlotsBelowMax s.rcv)
    (hseq : (seq.toNat : Int) = maxSequenceOf img.length + 1) (hst : doneStatus seq s = .success) :
    sinkLog (doneTaken seq .success s) = .closed path img .success := by
  have hcursor := doneStatus_eq_success_iff.mp hst
  obtain ⟨hsink, -⟩ := hr.flushed hmax
  rw [sinkLog_doneTaken, hsink, chunksBelow_eq_self (by omega)]
  rfl

theorem exec_done_active (hs : receiverActive s) :
    exec (.done .receiver seq) s = .next (doneTaken seq (doneStatus seq s) s) :=
  congrArg outcome (rTakeDone_active hs)

/-- R207, R228: the DONE that carries the chunk count ends SUCCESS where every chunk is in the seen-set. -/
theorem doneStatus_eq_success (hmax : SlotsBelowMax s.rcv) (hseq : (seq.toNat : Int) = maxSequenceOf img.length + 1)
    (hall : ∀ n : Nat, (n : Int) ≤ maxSequenceOf img.length → seen s n = true) : doneStatus seq s = .success := by
  have hlast := maxSequence_lt_flushed_writeCursor hmax hall
  exact doneStatus_eq_success_iff.mpr (by omega)

end

/-- Settles O56: a chunk goes to its own slot, every other step at most flushes the buffer, and the flush of the DONE
reaches the first number that is not in the seen-set. -/
theorem reassemblyKeepsTheFile : Obligations.ReassemblyKeepsTheFile := by
  intro path img s t hinv hs hr
  have hmax := hinv.slotsBelowMax
  refine ⟨?_, fun seq hl hle hnear h => ?_, fun seq hseq h => ?_⟩
  · rintro i (⟨seq, rfl, hle⟩ | hi) h ht
    · exact ⟨hr.data hinv hs hle h, fun n => seen_data hinv hs h⟩
    · have hflush := exec_storesNoChunk_bufferFlushed hi hs h ht
      exact ⟨hflush.reassembled hmax hr, fun n => (hflush.seen_eq hmax n).trans⟩
  · exact ⟨receiverActive_data hs h, seen_data_self hinv hs (chunk_ne_max hl hle) hnear h⟩
  · cases (exec_done_active hs).symm.trans h
    refine ⟨doneStatus_eq_success hmax hseq, fun hst => ?_⟩
    have hstatus : doneStatus seq s = .success := hst
    rw [hstatus]
    exact hr.closed hmax hseq hstatus

/-! ## A whole session (R228) -/

/-- R46 to R52: an instruction that stores no chunk keeps the invariant, encodable or not: the sender's steps ask
for no bound on an operand, and the receiver ignores a request whatever its path, as it does a DONE_ACK. -/
theorem exec_storesNoChunk_blockInv {i : Instr} {s t : State} (hi : storesNoChunk i = true) (hinv : BlockInv s)
    (h : exec i s = .next t) : BlockInv t := by
  by_cases he : engineOf i = some .sender
  · have hstep := exec_senderStep he h
    have hcfg := hstep.frame.cfg_eq
    obtain ⟨hc, hsnd, hrcv⟩ := hinv
    exact ⟨hcfg ▸ hc, hcfg ▸ hstep.keeps hc hsnd, by rw [hcfg, hstep.frame.rcv_eq]; exact hrcv⟩
  · cases i with
    | fileRequest e seq path =>
      cases e
      · exact absurd rfl he
      · exact exec_keeps_blockInv (i := .doneAck .receiver seq) rfl hinv h
    | data e seq payload => exact absurd (congrArg some (of_decide_eq_true hi)) he
    | rxS d => exact absurd rfl he
    | rxR d => exact exec_keeps_blockInv (i := .rxR d) hi hinv h
    | ack | fileNotFound | fileNotFoundAck | done | doneAck | reset | serve | fetch | timeoutS | timeoutR | drainEnd =>
      exact exec_keeps_blockInv rfl hinv h

/-- R228: a session of the file in which the numbers `got` have arrived. -/
structure Reassembling (path img : Bytes) (got : List Nat) (s : State) : Prop where
  inv : BlockInv s
  active : receiverActive s
  reassembled : Reassembled path img s
  got_seen : ∀ n ∈ got, seen s n = true

/-- R201: FETCH starts one, with no number yet. -/
theorem reassembling_fetch {path : Bytes} (img : Bytes) {s t : State} (hinv : BlockInv s) (hs : ¬ receiverActive s)
    (hp : path.length ≤ chunkSize) (h : exec (.fetch path) s = .next t) : Reassembling path img [] t := by
  obtain ⟨-, -, hstart⟩ := fetchStartsASessionOrIsRefused s path
  have hinv' := exec_keeps_blockInv rfl hinv h
  cases (hstart hs hp).symm.trans h
  refine ⟨hinv', .inl rfl, ⟨?_, fun k slot hk => ?_⟩, nofun⟩
  · simp [sinkLog, sinkAfter, chunksBelow]
  · simp [List.getElem?_replicate] at hk

/-- R228: every delivery of `Delivery` keeps it, and adds the chunk that it delivers. -/
theorem Delivery.reassembling {path img : Bytes} {s t : State} {got : List Nat} (h : Delivery img s got t)
    (hl : img.length ≤ fileSizeMax) (hs : Reassembling path img [] s) : Reassembling path img got t := by
  induction h with
  | start => exact hs
  | chunk got t u seq _ hle hnear h ih =>
    obtain ⟨hinv, hactive, hr, hgot⟩ := ih
    have hw : (Instr.data .receiver seq (fileChunk img seq.toNat)).wf = true :=
      decide_eq_true (fileChunk_length_le img _)
    refine ⟨exec_keeps_blockInv hw hinv h, receiverActive_data hactive h,
      hr.data hinv hactive hle h, fun n hn => ?_⟩
    obtain rfl | hn := List.mem_cons.mp hn
    · exact seen_data_self hinv hactive (chunk_ne_max hl hle) hnear h
    · exact seen_data hinv hactive h (hgot n hn)
  | other got t u i _ hi h hu ih =>
    obtain ⟨hinv, hactive, hr, hgot⟩ := ih
    have hmax := hinv.slotsBelowMax
    have hflush := exec_storesNoChunk_bufferFlushed hi hactive h hu
    exact ⟨exec_storesNoChunk_blockInv hi hinv h, hu, hflush.reassembled hmax hr,
      fun n hn => (hflush.seen_eq hmax n).trans (hgot n hn)⟩

/-- Settles O57: by induction over the deliveries every chunk is in the seen-set when the DONE comes. -/
theorem chunksInAnyOrderGiveTheFile : Obligations.ChunksInAnyOrderGiveTheFile := by
  intro path img s0 s t got seq hinv0 hs0 hp h hl hdelivery hall hseq
  obtain ⟨hinv, hactive, hr, hgot⟩ := hdelivery.reassembling hl (reassembling_fetch img hinv0 hs0 hp h)
  have hmax := hinv.slotsBelowMax
  have hst := doneStatus_eq_success hmax hseq fun n hn => hgot n (hall n hn)
  refine ⟨doneTaken seq .success t, ?_, rfl, hr.closed hmax hseq hst⟩
  rw [exec_done_active hactive, hst]

end Sys2Proof.Machine

end

section

namespace Sys2Proof.Machine

open Sys2Proof

/-! ## The procedures answer where R272 says they do (R63, R128, R173)

A procedure stops in three ways: a register read without a value, a read outside the file, an Encode outside its
domain. The invariant gives what rules each of them out: an open file and its buffered window while the sender sends, a
path in range while the receiver's session runs. -/

/-- The procedure reaches a next state: it neither faults nor refuses. -/
def Answers (r : Res State) : Prop := ∃ t, r = .ok t

theorem Answers.outcome {r : Res State} (h : Answers r) : ∃ t, Machine.outcome r = .next t := by
  obtain ⟨t, rfl⟩ := h
  exact ⟨t, rfl⟩

/-! The sender's procedures. -/

section

variable {s : State}

/-- R158: a buffered window can be sent, whatever the count of timeouts. -/
theorem transmitWindow_answers {img : Bytes} (hw : WindowBuffered s.snd img) : Answers (transmitWindow s) :=
  ⟨_, transmitWindow_eq hw⟩

/-- R154, R62: a request is answered whatever the file store holds. -/
theorem takeRequest_answers (path : Bytes) : Answers (takeRequest path s) := by
  rcases hopen : fileOpen s path with _ | img
  · exact ⟨_, takeRequest_missing hopen⟩
  · exact ⟨_, takeRequest_opened hopen⟩

theorem sTakeFileRequest_answers (path : Bytes) : Answers (sTakeFileRequest path s) := by
  by_cases hs : s.snd.state = .awaitReq
  · rw [sTakeFileRequest_awaitReq hs]
    exact takeRequest_answers path
  · exact ⟨_, sTakeFileRequest_ignored hs⟩

/-- R159, R173: an ACK finds the window buffered, and any chunk it adds inside the file. -/
theorem sTakeAck_answers (hinv : SenderInv s.cfg s.snd) (next : SeqNo) : Answers (sTakeAck next s) := by
  by_cases hs : s.snd.state = .sendWait
  · obtain ⟨img, hready, -⟩ := hinv.sendWait hs
    have hready' : WindowReady (clearTimeouts .sender s).snd img := hready.set_count 0
    rw [sTakeAck_sendWait hs]
    by_cases hn : s.snd.windowStart.toNat < next.toNat
    · exact ⟨_, takeAck_advances hready'.opened hready'.buffered hn⟩
    · rw [takeAck_resends (s := clearTimeouts .sender s) (Nat.le_of_not_lt hn)]
      exact transmitWindow_answers hready'.buffered
  · exact ⟨_, sTakeAck_ignored hs⟩

theorem sTakeDoneAck_answers : Answers (sTakeDoneAck s) := by
  unfold sTakeDoneAck
  split <;> exact ⟨_, rfl⟩

theorem sTakeFileNotFoundAck_answers : Answers (sTakeFileNotFoundAck s) := by
  unfold sTakeFileNotFoundAck
  split <;> exact ⟨_, rfl⟩

theorem sReceive_answers (hinv : SenderInv s.cfg s.snd) (d : Datagram) : Answers (sReceive d s) := by
  unfold sReceive
  split
  · exact ⟨_, rfl⟩
  · split
    · exact sTakeFileRequest_answers _
    · exact sTakeAck_answers hinv _
    · exact sTakeFileNotFoundAck_answers
    · exact sTakeDoneAck_answers
    · exact ⟨_, rfl⟩

theorem timeoutSendWait_answers (hinv : SenderInv s.cfg s.snd) (hs : s.snd.state = .sendWait) :
    Answers (timeoutSendWait s) := by
  obtain ⟨img, hready, -⟩ := hinv.sendWait hs
  unfold timeoutSendWait
  split_ifs
  · exact ⟨_, rfl⟩
  · exact transmitWindow_answers (s := (countTimeoutS s).1) (hready.set_count _).buffered

/-- R161, R164, R168: a timeout is answered in each of the three waiting states. -/
theorem sTimeout_answers (hinv : SenderInv s.cfg s.snd) (harmed : timerArmed .sender s = true) :
    Answers (sTimeout s) := by
  rcases hs : s.snd.state with _ | _ | _ | _ | _ | _
  case sendWait =>
    rw [sTimeout_sendWait hs]
    exact timeoutSendWait_answers hinv hs
  case doneWait => exact ⟨_, sTimeout_doneWait hs⟩
  case missing =>
    by_cases hn : s.snd.nfCount = 0#1
    · exact ⟨_, sTimeout_missing_again hs hn⟩
    · exact ⟨_, sTimeout_missing_ends hs hn⟩
  all_goals simp [timerArmed, hs] at harmed

theorem sServe_answers : Answers (sServe s) := by
  unfold sServe
  split <;> exact ⟨_, rfl⟩

/-! The receiver's procedures. -/

theorem rTakeUnexpected_answers : Answers (rTakeUnexpected s) := ⟨_, rTakeUnexpected_eq s⟩

theorem rTakeData_answers (seq : SeqNo) (payload : Bytes) : Answers (rTakeData seq payload s) :=
  ⟨_, thenBatchCount_ok _⟩

theorem rTakeDone_answers (seq : SeqNo) : Answers (rTakeDone seq s) := by
  by_cases hs : receiverActive s
  · exact ⟨_, rTakeDone_active hs⟩
  · exact ⟨_, rTakeDone_ignored hs⟩

theorem rTakeFileNotFound_answers (seq : SeqNo) : Answers (rTakeFileNotFound seq s) := by
  by_cases hs : receiverActive s
  · exact ⟨_, rTakeFileNotFound_active hs⟩
  · exact ⟨_, rTakeFileNotFound_ignored hs⟩

theorem rReceive_answers (d : Datagram) : Answers (rReceive d s) := by
  unfold rReceive
  split
  · exact ⟨_, thenBatchCount_ok _⟩
  · split
    · exact rTakeData_answers _ _
    · exact rTakeFileNotFound_answers _
    · exact rTakeDone_answers _
    · exact rTakeUnexpected_answers

/-- R204: the request can be sent where a path in range is held. -/
theorem sendRequest_answers {path : Bytes} (hpath : s.rcv.path = some path) (hlen : path.length ≤ chunkSize) :
    Answers (sendRequest s) := by
  simp only [sendRequest, hpath, readReg]
  exact ⟨_, emitPacket_eq_ok.mpr ⟨⟨by decide, by decide, hlen⟩, rfl⟩⟩

/-- R33: a running session holds a path in range. -/
theorem ReceiverInv.path_in_range {c : Config} {x : Receiver} (h : ReceiverInv c x)
    (hs : x.state = .reqSent ∨ x.state = .receiving) : ∃ path, x.path = some path ∧ path.length ≤ chunkSize := by
  obtain ⟨path, hpath⟩ := Option.isSome_iff_exists.mp (h.running hs).2
  obtain ⟨-, -, hlegal, -⟩ := h
  exact ⟨path, hpath, hlegal path hpath⟩

theorem timeoutReqSent_answers (hinv : ReceiverInv s.cfg s.rcv) (hs : s.rcv.state = .reqSent) :
    Answers (timeoutReqSent s) := by
  obtain ⟨path, hpath, hlen⟩ := hinv.path_in_range (.inl hs)
  unfold timeoutReqSent
  split_ifs
  · exact ⟨_, rfl⟩
  · obtain ⟨t, ht⟩ := sendRequest_answers (s := (countTimeoutR s).1) hpath hlen
    rw [ht]
    exact ⟨_, rfl⟩
  · exact ⟨_, rfl⟩

theorem timeoutReceiving_answers : Answers (timeoutReceiving s) := by
  unfold timeoutReceiving
  split_ifs
  · exact ⟨_, rfl⟩
  · exact ⟨_, ackStep_eq _⟩

/-- R205, R225: a timeout is answered in both waiting states. -/
theorem rTimeout_answers (hinv : ReceiverInv s.cfg s.rcv) (harmed : timerArmed .receiver s = true) :
    Answers (rTimeout s) := by
  unfold rTimeout
  split
  case h_1 hs => exact timeoutReqSent_answers hinv hs
  case h_2 => exact timeoutReceiving_answers
  all_goals next hs => simp [timerArmed, hs] at harmed

theorem rDrainEnd_answers (hs : s.rcv.state = .receiving) (hb : 1 ≤ s.rcv.bc) : Answers (rDrainEnd s) := by
  simp only [rDrainEnd, hs, if_pos hb]
  exact ⟨_, ackStep_eq s⟩

/-- R201: a path out of range is answered before any request is encoded. -/
theorem rFetch_answers (path : Bytes) : Answers (rFetch path s) := by
  by_cases hs : receiverActive s
  · exact ⟨_, rFetch_busy hs⟩
  · rw [rFetch_idle hs]
    split_ifs with hp
    · exact ⟨_, rfl⟩
    · exact ⟨_, takeFetch_eq s (Nat.le_of_not_lt hp)⟩

end

/-! ## Instructions that are enabled, and those that are not (R104) -/

/-- R272, R173: from a legal state an enabled instruction has a next state. -/
theorem exec_of_enabled {i : Instr} {s : State} (hinv : BlockInv s) (hen : enabled i s = true) :
    ∃ t, exec i s = .next t := by
  obtain ⟨-, hsnd, hrcv⟩ := hinv
  cases i with
  | fileRequest e seq path =>
    cases e
    · exact (sTakeFileRequest_answers path).outcome
    · exact rTakeUnexpected_answers.outcome
  | data e seq payload =>
    cases e
    · exact ⟨_, rfl⟩
    · exact (rTakeData_answers seq payload).outcome
  | ack e seq next =>
    cases e
    · exact (sTakeAck_answers hsnd next).outcome
    · exact rTakeUnexpected_answers.outcome
  | fileNotFound e seq =>
    cases e
    · exact ⟨_, rfl⟩
    · exact (rTakeFileNotFound_answers seq).outcome
  | fileNotFoundAck e seq =>
    cases e
    · exact sTakeFileNotFoundAck_answers.outcome
    · exact rTakeUnexpected_answers.outcome
  | done e seq =>
    cases e
    · exact ⟨_, rfl⟩
    · exact (rTakeDone_answers seq).outcome
  | doneAck e seq =>
    cases e
    · exact sTakeDoneAck_answers.outcome
    · exact rTakeUnexpected_answers.outcome
  | reset => exact ⟨_, rfl⟩
  | serve => exact sServe_answers.outcome
  | fetch path => exact (rFetch_answers path).outcome
  | rxS d => exact (sReceive_answers hsnd d).outcome
  | rxR d => exact (rReceive_answers d).outcome
  | timeoutS => exact (sTimeout_answers hsnd hen).outcome
  | timeoutR => exact (rTimeout_answers hrcv hen).outcome
  | drainEnd =>
    obtain ⟨hs, hb⟩ := of_decide_eq_true hen
    exact (rDrainEnd_answers hs hb).outcome

/-- R104: an instruction that is not enabled is refused under its own event code (log 11). -/
theorem exec_of_not_enabled {i : Instr} {s : State} (hen : enabled i s = false) :
    exec i s = .refused (.eventNotEnabled (encode i).code) := by
  cases i with
  | timeoutS =>
    refine congrArg outcome (sTimeout_not_enabled fun hs => ?_)
    simp only [List.mem_cons, List.not_mem_nil, or_false] at hs
    rcases hs with hs | hs | hs <;> simp [enabled, timerArmed, hs] at hen
  | timeoutR =>
    refine congrArg outcome (rTimeout_not_enabled fun hs => ?_)
    simp only [List.mem_cons, List.not_mem_nil, or_false] at hs
    rcases hs with hs | hs <;> simp [enabled, timerArmed, hs] at hen
  | drainEnd => exact congrArg outcome (rDrainEnd_not_enabled (of_decide_eq_false hen))
  | _ => cases hen

/-! ## What the code of an input decides (R104, R105, R107) -/

/-- R76: whatever a datagram is delivered as, its engine's RX code encodes it. -/
theorem encode_delivered_code (e : Engine) (d : Datagram) : (encode (delivered e d)).code = rxCode e := by
  unfold delivered
  split
  · cases e <;> rfl
  · next p _ =>
    split
    · next i hi =>
      unfold packetInstr at hi
      split at hi <;> cases hi
      all_goals rfl
    · cases e <;> rfl

/-- R104, R105: an instruction is encoded under the code it was read from. -/
theorem encode_code_of_decode {w : Input} {i : Instr} (h : decode w = .ok i) : (encode i).code = w.code := by
  have hcode (n : Nat) (hn : w.code.toNat = n) : BitVec.ofNat 8 n = w.code := by
    rw [← hn, BitVec.ofNat_toNat, BitVec.setWidth_eq]
  unfold decode at h
  split at h
  · unfold decodeCommand at h
    split at h
    case h_1 hn =>
      cases bare_eq_ok h
      exact hcode _ hn
    case h_2 hn =>
      cases h
      exact hcode _ hn
    case h_3 => cases h
  · unfold decodeEvent at h
    split at h
    case h_3 hn =>
      cases h
      exact hcode _ hn
    case h_4 hn | h_5 hn =>
      cases h
      exact (encode_delivered_code _ _).trans (hcode _ hn)
    case h_9 => cases h
    all_goals
      next hn =>
        cases bare_eq_ok h
        exact hcode _ hn

theorem bare_eq_error {code : Byte} {operand : Bytes} {i : Instr} {e : DecodeError}
    (h : bare code operand i = .error e) : e = .operandNotAllowed code ∧ operand ≠ [] := by
  unfold bare at h
  split at h <;> cases h
  exact ⟨rfl, List.cons_ne_nil _ _⟩

/-- R105, log 10: a command is unknown, or SERVE with operand bytes. -/
theorem decodeCommand_eq_error {c : Byte} {operand : Bytes} {e : DecodeError}
    (h : decodeCommand c operand = .error e) :
    e = .unknownCommand c ∨ (e = .operandNotAllowed c ∧ operand ≠ [] ∧ c = 0x10#8) := by
  unfold decodeCommand at h
  split at h
  case h_1 hn =>
    obtain ⟨he, hoperand⟩ := bare_eq_error h
    exact .inr ⟨he, hoperand, BitVec.eq_of_toNat_eq hn⟩
  case h_2 => cases h
  case h_3 =>
    cases h
    exact .inl rfl

/-- R104, R107, log 10: an event is reserved, or one without an operand that comes with operand bytes. -/
theorem decodeEvent_eq_error {c : Byte} {operand : Bytes} {e : DecodeError} (h : decodeEvent c operand = .error e) :
    (e = .reservedEvent c ∧ c ∉ [0x01#8, 0x10#8, 0x11#8, 0x20#8, 0x21#8, 0x30#8, 0x31#8, 0x41#8]) ∨
      (e = .operandNotAllowed c ∧ operand ≠ [] ∧ c ∈ [0x01#8, 0x10#8, 0x30#8, 0x31#8, 0x41#8]) := by
  by_cases hc : c ∈ [0x01#8, 0x10#8, 0x11#8, 0x20#8, 0x21#8, 0x30#8, 0x31#8, 0x41#8]
  · simp only [List.mem_cons, List.not_mem_nil, or_false] at hc
    obtain rfl | rfl | rfl | rfl | rfl | rfl | rfl | rfl := hc
    case inr.inr.inl | inr.inr.inr.inl | inr.inr.inr.inr.inl => cases h
    all_goals
      obtain ⟨he, hoperand⟩ := bare_eq_error h
      exact .inr ⟨he, hoperand, by decide⟩
  · rw [decodeEvent_reserved hc] at h
    cases h
    exact .inl ⟨rfl, hc⟩

/-! ## What a step answers (R272) -/

/-- R104, R105, R107: why the head input `w` is refused with `r`: its code is reserved, it has operand bytes where there
are none, or it is an instruction that is not enabled. -/
def RefusedFor (s : State) (w : Input) (r : Refusal) : Prop :=
  (r = .reservedEventCode w.code ∧ w.port = .event ∧
      w.code ∉ [0x01#8, 0x10#8, 0x11#8, 0x20#8, 0x21#8, 0x30#8, 0x31#8, 0x41#8]) ∨
    (r = .operandNotAllowed w.code ∧ w.operand ≠ [] ∧
      ((w.port = .event ∧ w.code ∈ [0x01#8, 0x10#8, 0x30#8, 0x31#8, 0x41#8]) ∨
        (w.port = .command ∧ w.code = 0x10#8))) ∨
    (r = .eventNotEnabled w.code ∧ ∃ i, decode w = .ok i ∧ enabled i s = false)

/-- R105, R107: an input that is no instruction is answered, or refused for its code or its operand. -/
theorem rejectInput_cases {w : Input} {e : DecodeError} (s t : State) (h : decode w = .error e) :
    (∃ u, rejectInput e t = .next u) ∨ ∃ r, rejectInput e t = .refused r ∧ RefusedFor s w r := by
  unfold decode at h
  split at h
  · next hport =>
    obtain rfl | ⟨rfl, hoperand, hc⟩ := decodeCommand_eq_error h
    · exact .inl ⟨_, rfl⟩
    · exact .inr ⟨_, rfl, .inr (.inl ⟨rfl, hoperand, .inr ⟨hport, hc⟩⟩)⟩
  · next hport =>
    obtain ⟨rfl, hc⟩ | ⟨rfl, hoperand, hc⟩ := decodeEvent_eq_error h
    · exact .inr ⟨_, rfl, .inl ⟨rfl, hport, hc⟩⟩
    · exact .inr ⟨_, rfl, .inr (.inl ⟨rfl, hoperand, .inl ⟨hport, hc⟩⟩)⟩

/-- R104: taking an input enables and disables nothing. -/
theorem enabled_inputs (i : Instr) (s : State) (rest : List Input) :
    enabled i { s with inputs := rest } = enabled i s := by
  cases i <;> rfl

/-- Settles O16: there is no head input to take. -/
theorem stepWaitsWithoutInput : Obligations.StepWaitsWithoutInput := by
  intro s hinputs
  simp only [step, takeInput, hinputs]

/-- R272: a step from a legal state has a next state, or refuses the head input for one of the three reasons. -/
theorem step_cases {s : State} (hinv : BlockInv s) :
    (∃ t, step s = .next t) ∨ ∃ w rest r, s.inputs = w :: rest ∧ step s = .refused r ∧ RefusedFor s w r := by
  rcases hinputs : s.inputs with _ | ⟨w, rest⟩
  · exact .inl ⟨s, stepWaitsWithoutInput s hinputs⟩
  · have hinv' : BlockInv { s with inputs := rest } := hinv
    rcases hdecode : decode w with e | i
    · rw [step_eq_rejectInput hinputs hdecode]
      obtain hnext | ⟨r, hr, hreason⟩ := rejectInput_cases s { s with inputs := rest } hdecode
      · exact .inl hnext
      · exact .inr ⟨w, rest, r, rfl, hr, hreason⟩
    · rw [stepRunsTheDecodedInstruction s w rest i hinputs hdecode]
      rcases hen : enabled i s with _ | _
      · have hrefused := exec_of_not_enabled ((enabled_inputs i s rest).trans hen)
        rw [encode_code_of_decode hdecode] at hrefused
        exact .inr ⟨w, rest, _, rfl, hrefused, .inr (.inr ⟨rfl, i, hdecode, hen⟩)⟩
      · exact .inl (exec_of_enabled hinv' ((enabled_inputs i s rest).trans hen))

/-- Settles O49: `step_cases` leaves no fault and the three refusals; an enabled head input runs by
`exec_of_enabled`. -/
theorem noRuleFaults : Obligations.NoRuleFaults := by
  intro s hinv
  refine ⟨fun f hf => ?_, fun r hr => ?_, fun w rest i hinputs hdecode hen => ?_⟩
  · obtain ⟨t, ht⟩ | ⟨w, rest, r, -, hr, -⟩ := step_cases hinv
    · cases hf.symm.trans ht
    · cases hf.symm.trans hr
  · obtain ⟨t, ht⟩ | ⟨w, rest, r', hinputs, hr', hreason⟩ := step_cases hinv
    · cases hr.symm.trans ht
    · cases hr.symm.trans hr'
      exact ⟨w, rest, hinputs, hreason⟩
  · have hinv' : BlockInv { s with inputs := rest } := hinv
    rw [stepRunsTheDecodedInstruction s w rest i hinputs hdecode]
    exact exec_of_enabled hinv' ((enabled_inputs i s rest).trans hen)

end Sys2Proof.Machine

end

section

namespace Sys2Proof.Machine

open Sys2Proof

/-! ## What a step announces: END and the command responses (R256, R257, R264)

The outputs of a step are datagrams and sink operations, followed by at most one END or one command response. -/

/-- R106: an output of the transfer itself: neither an END nor a command response. -/
def transferOutput : Output → Bool
  | .tx _ _ | .sinkOpen _ | .sinkWrite _ | .sinkClose _ | .sinkAbort => true
  | .endSession _ _ | .cmdResp _ => false

/-- A step whose new outputs are transfer outputs, and `last` behind them. -/
def OutputsThen (last : List Output) (s t : State) : Prop :=
  ∃ os, t.out = s.out ++ os ++ last ∧ ∀ o ∈ os, transferOutput o = true

section

variable {s t u : State} {last : List Output} {o : Output}

theorem OutputsThen.only (h : t.out = s.out ++ last) : OutputsThen last s t :=
  ⟨[], by rw [h, List.append_nil], nofun⟩

theorem OutputsThen.of_out_eq (h : t.out = s.out) : OutputsThen [] s t :=
  .only (by rw [h, List.append_nil])

theorem OutputsThen.of_forall {os : List Output} (h : t.out = s.out ++ os) (ho : ∀ o ∈ os, transferOutput o = true) :
    OutputsThen [] s t :=
  ⟨os, by rw [h, List.append_nil], ho⟩

theorem OutputsThen.single (h : t.out = s.out ++ [o]) (ho : transferOutput o = true) : OutputsThen [] s t :=
  .of_forall h fun _ hmem => List.mem_singleton.mp hmem ▸ ho

theorem output_quiet (o : Output) (s : State) (ho : transferOutput o = true) : OutputsThen [] s (s.output o) :=
  .single rfl ho

/-- Transfer outputs before the step that announces. -/
theorem OutputsThen.after (h : OutputsThen last u t) (hu : OutputsThen [] s u) : OutputsThen last s t := by
  obtain ⟨os, hos, hall⟩ := h
  obtain ⟨os', hos', hall'⟩ := hu
  refine ⟨os' ++ os, ?_, fun o ho => (List.mem_append.mp ho).elim (hall' o) (hall o)⟩
  rw [hos, hos']
  simp only [List.append_nil, List.append_assoc]

theorem endOf_eq_none (e : Engine) (h : transferOutput o = true) : endOf e o = none := by
  cases o with
  | endSession | cmdResp => cases h
  | _ => rfl

theorem respOf_eq_none (h : transferOutput o = true) : respOf o = none := by
  cases o with
  | endSession | cmdResp => cases h
  | _ => rfl

/-- R264: what is behind the transfer outputs decides the new END indications. -/
theorem OutputsThen.endIndications_eq (h : OutputsThen last s t) (e : Engine) :
    endIndications e t = endIndications e s ++ last.filterMap (endOf e) := by
  obtain ⟨os, hos, hall⟩ := h
  have hnone : os.filterMap (endOf e) = [] := List.filterMap_eq_nil_iff.mpr fun o ho => endOf_eq_none e (hall o ho)
  rw [endIndications, hos, List.filterMap_append, List.filterMap_append, hnone, List.append_nil, endIndications]

/-- R256: and the new command responses. -/
theorem OutputsThen.cmdResponses_eq (h : OutputsThen last s t) :
    cmdResponses t = cmdResponses s ++ last.filterMap respOf := by
  obtain ⟨os, hos, hall⟩ := h
  have hnone : os.filterMap respOf = [] := List.filterMap_eq_nil_iff.mpr fun o ho => respOf_eq_none (hall o ho)
  rw [cmdResponses, hos, List.filterMap_append, List.filterMap_append, hnone, List.append_nil, cmdResponses]

end

/-! The sender's procedures announce nothing, and do not end the session. -/

theorem windowPacket_transferOutput {s : State} {k : Nat} {o : Output} (h : windowPacket s k = .ok o) :
    transferOutput o = true := by
  unfold windowPacket at h
  split at h
  · cases h
  · split at h <;> cases h
    rfl

theorem transmitWindow_quiet {s t : State} (h : transmitWindow s = .ok t) :
    OutputsThen [] s t ∧ t.snd = s.snd := by
  unfold transmitWindow at h
  split at h <;> cases h
  next os hos =>
    refine ⟨.of_forall rfl fun o ho => ?_, rfl⟩
    obtain ⟨k, hk, rfl⟩ := List.getElem_of_mem ho
    have hpackets := collect_eq_ok.mp hos
    exact windowPacket_transferOutput (hpackets.get (hpackets.length_eq ▸ hk) hk)

theorem sendOrFinish_quiet {s t : State} (h : sendOrFinish s = .ok t) :
    OutputsThen [] s t ∧ t.snd.state ≠ .terminated := by
  unfold sendOrFinish at h
  split at h
  · cases h
  · split_ifs at h
    · split at h
      · cases h
      · next he =>
        obtain ⟨-, rfl⟩ := emitPacket_eq_ok.mp he
        cases h
        exact ⟨.single rfl rfl, nofun⟩
    · split at h
      · cases h
      · next he =>
        cases h
        exact ⟨(OutputsThen.of_out_eq rfl).after (transmitWindow_quiet he).1, nofun⟩

/-! The receiver's procedures likewise. -/

theorem flushed_quiet (s : State) : OutputsThen [] s (flushed s) := by
  refine .of_forall rfl fun o ho => ?_
  obtain ⟨slot, -, rfl⟩ := List.mem_map.mp ho
  rfl

theorem acknowledged_quiet (s : State) : OutputsThen [] s (acknowledged s) :=
  (OutputsThen.single rfl rfl).after (flushed_quiet s)

theorem batchCounted_quiet (s : State) : OutputsThen [] s (batchCounted s) := by
  unfold batchCounted
  split_ifs
  · exact acknowledged_quiet s
  · exact .of_out_eq rfl
  · exact .of_out_eq rfl

theorem acceptData_quiet (seq : SeqNo) (payload : Bytes) (s : State) : OutputsThen [] s (acceptData seq payload s) := by
  obtain ⟨c, he⟩ | ⟨-, -, he⟩ := acceptData_cases seq payload s <;> rw [he] <;> exact .of_out_eq rfl

/-- R207: DONE taken: the acknowledgment, the writes of the flush and the close of the sink, then the END. -/
theorem doneTaken_outputs (seq : SeqNo) (st : EndStatus) (s : State) :
    OutputsThen [.endSession .receiver st] s (doneTaken seq st s) := by
  have hacked : OutputsThen [] s ((clearTimeouts .receiver s).output (.tx .receiver (frame 0x06#8 seq []))) :=
    .single rfl rfl
  have hclosed := (output_quiet (.sinkClose st) _ rfl).after ((flushed_quiet _).after hacked)
  exact (OutputsThen.only rfl).after hclosed

/-- R208: FILE_NOT_FOUND taken: the acknowledgment and the abort of the sink, then the END. -/
theorem fileNotFoundTaken_outputs (seq : SeqNo) (s : State) :
    OutputsThen [.endSession .receiver .fileMissing] s (fileNotFoundTaken seq s) := by
  have hacked : OutputsThen [] s ((clearTimeouts .receiver s).output (.tx .receiver (frame 0x04#8 seq []))) :=
    .single rfl rfl
  exact (OutputsThen.only rfl).after ((output_quiet .sinkAbort _ rfl).after hacked)

/-- R205, R225: the retry cap reached: the abort of the sink, then the END. -/
theorem exhaustR_outputs (s : State) : OutputsThen [.endSession .receiver .retryExhausted] s (exhaustR s) :=
  (OutputsThen.only rfl).after (output_quiet .sinkAbort s rfl)

/-- R201: FETCH taken: the request and the open of the sink, then the response. -/
theorem fetchTaken_outputs (path : Bytes) (s : State) : OutputsThen [.cmdResp .ok] s (fetchTaken path s) := by
  refine ⟨[.tx .receiver (frame 0x00#8 0#32 path), .sinkOpen path], ?_, by simp [transferOutput]⟩
  rw [fetchTaken_out, List.append_assoc]
  rfl

/-! ## The end of a session (R257) -/

/-- R19: a session of the engine is running. -/
def sessionRuns (e : Engine) (s : State) : Prop :=
  match e with
  | .sender => senderActive s
  | .receiver => receiverActive s

/-- R19, R21, R31: the engine's session has ended. -/
def sessionEnded (e : Engine) (s : State) : Prop :=
  match e with
  | .sender => s.snd.state = .terminated
  | .receiver => s.rcv.state ∈ [.flushedOnDone, .abortedOnMissing, .failed]

/-- R22, R32: the engine's status register. -/
def sessionStatus (e : Engine) (s : State) : EndStatus :=
  match e with
  | .sender => s.snd.status
  | .receiver => s.rcv.status

/-- R257: the step from `s` to `t` ends a session of the engine. -/
def EndsSession (e : Engine) (s t : State) : Prop := sessionRuns e s ∧ sessionEnded e t

/-- A step that leaves the sender's session state ends no session of it. -/
theorem not_endsSession_sender {s t : State} (h : t.snd.state = s.snd.state) : ¬ EndsSession .sender s t := by
  rintro ⟨hruns, hended⟩
  have hs : s.snd.state = .terminated := h.symm.trans hended
  simp [sessionRuns, senderActive, hs] at hruns

/-- A step that leaves the receiver's session state ends no session of it. -/
theorem not_endsSession_receiver {s t : State} (h : t.rcv.state = s.rcv.state) : ¬ EndsSession .receiver s t := by
  rintro ⟨hruns | hruns, hended⟩ <;> simp [sessionEnded, h, hruns] at hended

/-- R256, R257: what a step of engine `e` announces: nothing; the END of the session that it ends, with the status
register's value; or the response to a host command. -/
inductive Announces (e : Engine) (i : Instr) (s t : State) : Prop where
  | nothing (hs : ¬ EndsSession e s t) (ho : OutputsThen [] s t)
  | ends (hs : EndsSession e s t) (ho : OutputsThen [.endSession e (sessionStatus e t)] s t)
  | responds (c : CmdCode) (hi : i = .serve ∨ ∃ path, i = .fetch path) (hs : ¬ EndsSession e s t)
      (ho : OutputsThen [.cmdResp c] s t)

/-- R165, R256: a step of the sender engine announces the session's end exactly in `Terminate`, and answers SERVE. -/
theorem SenderStep.announces {i : Instr} {s t : State} (h : SenderStep i s t) : Announces .sender i s t := by
  cases h with
  | drop c => exact .nothing (not_endsSession_sender rfl) (.of_out_eq rfl)
  | requestMissing => exact .nothing (fun h => nomatch h.2) (.single rfl rfl)
  | requestOpened path img u t hs ho hf ht =>
    obtain ⟨wbuf, rfl⟩ := fill_eq_ok hf
    obtain ⟨hquiet, hstate⟩ := sendOrFinish_quiet ht
    exact .nothing (fun h => hstate h.2) (hquiet.after (.of_out_eq rfl))
  | ackAdvances next m u t hs hn hm hr ht =>
    obtain ⟨wbuf, rfl⟩ := refill_eq_ok hr
    obtain ⟨hquiet, hstate⟩ := sendOrFinish_quiet ht
    exact .nothing (fun h => hstate h.2) (hquiet.after (.of_out_eq rfl))
  | ackResends t hs ht =>
    obtain ⟨hquiet, hsnd⟩ := transmitWindow_quiet ht
    exact .nothing (not_endsSession_sender (by rw [hsnd]; rfl)) (hquiet.after (.of_out_eq rfl))
  | timeoutResends t hs hc ht =>
    obtain ⟨hquiet, hsnd⟩ := transmitWindow_quiet ht
    exact .nothing (not_endsSession_sender (by rw [hsnd]; rfl)) (hquiet.after (.of_out_eq rfl))
  | timeoutMissingAgain hs => exact .nothing (not_endsSession_sender rfl) (.single rfl rfl)
  | endsDefensively hs =>
    exact .ends ⟨hs.elim (.inr ∘ .inl) (.inr ∘ .inr ∘ .inl), rfl⟩ (.only rfl)
  | timeoutExhausts hs => exact .ends ⟨.inr (.inl hs), rfl⟩ (.only rfl)
  | doneAcked hs | timeoutAfterDone hs => exact .ends ⟨.inr (.inr (.inl hs)), rfl⟩ (.only rfl)
  | missingAcked hs | timeoutMissingEnds hs => exact .ends ⟨.inr (.inr (.inr hs)), rfl⟩ (.only rfl)
  | serveBusy hi hs => exact .responds .busy (.inl hi) (not_endsSession_sender rfl) (.only rfl)
  | serveStarts hi hs => exact .responds .ok (.inl hi) (fun h => nomatch h.2) (.only rfl)

/-- R209, R256: a step of the receiver engine announces the session's end exactly in `Terminate`, and answers FETCH. -/
theorem ReceiverStep.announces {i : Instr} {s t : State} (h : ReceiverStep i s t) : Announces .receiver i s t := by
  cases h with
  | drop c =>
    exact .nothing (not_endsSession_receiver (batchCounted_state _)) ((batchCounted_quiet _).after (.of_out_eq rfl))
  | data seq payload hs =>
    have hstate : (batchCounted (acceptData seq payload (takingData s))).rcv.state = .receiving :=
      (batchCounted_state _).trans (acceptData_state ..)
    have htaken := (acceptData_quiet seq payload (takingData s)).after (s := s) (.of_out_eq rfl)
    exact .nothing (fun h => by simp [EndsSession, sessionEnded, hstate] at h) ((batchCounted_quiet _).after htaken)
  | done seq st hs => exact .ends ⟨hs, .head _⟩ (doneTaken_outputs seq st s)
  | fileNotFound seq hs => exact .ends ⟨hs, .tail _ (.head _)⟩ (fileNotFoundTaken_outputs seq s)
  | timeoutExhausts hs =>
    exact .ends ⟨hs, .tail _ (.tail _ (.head _))⟩ ((exhaustR_outputs _).after (.of_out_eq rfl))
  | timeoutRequests path => exact .nothing (not_endsSession_receiver rfl) (.single rfl rfl)
  | timeoutWaits => exact .nothing (not_endsSession_receiver rfl) (.of_out_eq rfl)
  | timeoutAcks =>
    exact .nothing (not_endsSession_receiver rfl) ((acknowledged_quiet _).after (.of_out_eq rfl))
  | drainEnd => exact .nothing (not_endsSession_receiver rfl) (acknowledged_quiet s)
  | fetchRefused path c hi => exact .responds c (.inr ⟨path, hi⟩) (not_endsSession_receiver rfl) (.only rfl)
  | fetchStarts path hi hs => exact .responds .ok (.inr ⟨path, hi⟩) (fun h => hs h.1) (fetchTaken_outputs path s)

/-- R73, R290: what a step announces is one engine's, and the other's session goes on; RESET announces nothing. -/
theorem exec_announces {i : Instr} {s t : State} (h : exec i s = .next t) :
    ∃ e, Announces e i s t ∧ ∀ e' ≠ e, ¬ EndsSession e' s t := by
  obtain ⟨-, rfl⟩ | hs | hr := exec_cases h
  · have hgoes (e : Engine) :
        ¬ EndsSession e s { s with snd := Sender.reset, rcv := Receiver.reset s.cfg.rbDepth } := by
      rintro ⟨-, hended⟩
      cases e <;> simp [sessionEnded, Sender.reset, Receiver.reset] at hended
    exact ⟨.sender, .nothing (hgoes _) (.of_out_eq rfl), fun e' _ => hgoes e'⟩
  · refine ⟨.sender, hs.announces, fun e' he' => ?_⟩
    cases e' with
    | sender => exact absurd rfl he'
    | receiver => exact not_endsSession_receiver (by rw [hs.frame.rcv_eq])
  · refine ⟨.receiver, hr.announces, fun e' he' => ?_⟩
    cases e' with
    | sender => exact not_endsSession_sender (by rw [hr.frame.snd_eq])
    | receiver => exact absurd rfl he'

/-- R264: an END of the other engine is none of this one's. -/
theorem endOf_endSession (e e' : Engine) (st : EndStatus) :
    endOf e (.endSession e' st) = if e' = e then some st else none := rfl

/-- R257, R264: a step raises one END of the engine whose session it ends, and no other. -/
theorem exec_endIndications {i : Instr} {s t : State} (h : exec i s = .next t) (e : Engine) :
    (EndsSession e s t → endIndications e t = endIndications e s ++ [sessionStatus e t]) ∧
      (¬ EndsSession e s t → endIndications e t = endIndications e s) := by
  obtain ⟨e', hannounces, hother⟩ := exec_announces h
  cases hannounces with
  | nothing hs ho | responds c hi hs ho =>
    have hgoes : ¬ EndsSession e s t := by
      by_cases he : e = e'
      · exact he ▸ hs
      · exact hother e he
    exact ⟨fun hends => absurd hends hgoes, fun _ => (ho.endIndications_eq e).trans (List.append_nil _)⟩
  | ends hs ho =>
    have hend := ho.endIndications_eq e
    simp only [List.filterMap_cons, List.filterMap_nil, endOf_endSession] at hend
    by_cases he : e' = e
    · subst he
      exact ⟨fun _ => by simpa using hend, fun hgoes => absurd hs hgoes⟩
    · have hgoes := hother e (Ne.symm he)
      exact ⟨fun hends => absurd hends hgoes, fun _ => by simpa [he] using hend⟩

/-- Settles O46: `exec_endIndications` for each of the two engines. -/
theorem sessionsEndOnceWithTheirStatus : Obligations.SessionsEndOnceWithTheirStatus := by
  intro i s t h
  obtain ⟨hsender, hsender'⟩ := exec_endIndications h .sender
  obtain ⟨hreceiver, hreceiver'⟩ := exec_endIndications h .receiver
  exact ⟨fun hruns hended => hsender ⟨hruns, hended⟩, hsender',
    fun hruns hended => hreceiver ⟨hruns, hended⟩, hreceiver'⟩

/-! ## Command responses (R256) -/

/-- R256: the step answers one command, and one refused writes no register. -/
def AnsweredOnce (s t : State) : Prop :=
  ∃ c, cmdResponses t = cmdResponses s ++ [c] ∧ (c ≠ .ok → t.snd = s.snd ∧ t.rcv = s.rcv)

/-- R16: a refusal is the response alone. -/
theorem respond_answeredOnce (c : CmdCode) (s : State) : AnsweredOnce s (respond c s) :=
  ⟨c, (OutputsThen.only (last := [.cmdResp c]) rfl).cmdResponses_eq, fun _ => ⟨rfl, rfl⟩⟩

/-- R151: both answers of SERVE. -/
theorem exec_serve_answeredOnce {s t : State} (h : exec .serve s = .next t) : AnsweredOnce s t := by
  have hserve : sServe s = .ok t := outcome_eq_next.mp h
  by_cases hs : senderActive s
  · rw [sServe_busy hs] at hserve
    cases hserve
    exact respond_answeredOnce .busy s
  · have hidle : s.snd.state = .idle ∨ s.snd.state = .terminated := by
      rcases hstate : s.snd.state with _ | _ | _ | _ | _ | _ <;> simp [senderActive, hstate] at hs ⊢
    rw [sServe_starts hidle] at hserve
    cases hserve
    exact ⟨.ok, (OutputsThen.only (last := [.cmdResp .ok]) rfl).cmdResponses_eq, fun hc => absurd rfl hc⟩

/-- R201: the three answers of FETCH. -/
theorem exec_fetch_answeredOnce {path : Bytes} {s t : State} (h : exec (.fetch path) s = .next t) :
    AnsweredOnce s t := by
  have hfetch : rFetch path s = .ok t := outcome_eq_next.mp h
  by_cases hs : receiverActive s
  · rw [rFetch_busy hs] at hfetch
    cases hfetch
    exact respond_answeredOnce .busy s
  · rw [rFetch_idle hs] at hfetch
    split_ifs at hfetch with hp
    · cases hfetch
      exact respond_answeredOnce .badPath s
    · rw [takeFetch_eq s (Nat.le_of_not_lt hp)] at hfetch
      cases hfetch
      exact ⟨.ok, (fetchTaken_outputs path s).cmdResponses_eq, fun hc => absurd rfl hc⟩

/-- Settles O45: SERVE and FETCH by the answers of their procedures, every other instruction by what it announces. -/
theorem commandsAreAnsweredOnce : Obligations.CommandsAreAnsweredOnce := by
  intro i s t h
  constructor
  · rintro (rfl | ⟨path, rfl⟩)
    · exact exec_serve_answeredOnce h
    · exact exec_fetch_answeredOnce h
  · intro hserve hfetch
    obtain ⟨e, hannounces, -⟩ := exec_announces h
    cases hannounces with
    | nothing _ ho | ends _ ho => exact ho.cmdResponses_eq.trans (List.append_nil _)
    | responds c hi => exact hi.elim (absurd · hserve) fun ⟨path, hi⟩ => absurd hi (hfetch path)

end Sys2Proof.Machine

end

section

namespace Sys2Proof.Machine

open Sys2Proof

/-- Settles O20: RESET writes the two register files and nothing else (R290). -/
theorem resetPutsEveryRegister : Obligations.ResetPutsEveryRegister := by
  intro s
  have hreset : exec .reset s = .next { s with snd := Sender.reset, rcv := Receiver.reset s.cfg.rbDepth } := rfl
  exact ⟨_, hreset, rfl, rfl, rfl, rfl, rfl, rfl, rfl⟩

end Sys2Proof.Machine

end

section

namespace Sys2Proof.Machine

open Sys2Proof

/-! ## The events of a transfer (R76, R77, R259) -/

/-- R76: RX at the sender is the instruction the datagram is delivered as. -/
theorem exec_rxS_eq_delivered (d : Datagram) (s : State) : exec (.rxS d) s = exec (delivered .sender d) s := by
  rcases hd : decodePacket d with c | p
  · rw [(delivered_of_not_packet (by rw [hd]; rfl)).1]
  · obtain ⟨-, hop, rfl⟩ := decodePacket_eq_ok hd
    obtain ⟨i, hi⟩ := Option.ne_none_iff_exists'.mp (packetInstr_isSome (e := .sender) (p := packetFields d) hop)
    rw [delivered_of_packet hd hi, exec_rxS_packet hd hi]

/-- R76: likewise RX at the receiver. -/
theorem exec_rxR_eq_delivered (d : Datagram) (s : State) : exec (.rxR d) s = exec (delivered .receiver d) s := by
  rcases hd : decodePacket d with c | p
  · rw [(delivered_of_not_packet (by rw [hd]; rfl)).2]
  · obtain ⟨-, hop, rfl⟩ := decodePacket_eq_ok hd
    obtain ⟨i, hi⟩ := Option.ne_none_iff_exists'.mp (packetInstr_isSome (e := .receiver) (p := packetFields d) hop)
    rw [delivered_of_packet hd hi, exec_rxR_packet hd hi]

/-- R76: the packet an event delivers, where the datagram is one. -/
def LinkEvent.packet : LinkEvent → Option Packet
  | .toReceiver d | .toSender d => (decodePacket d).toOption
  | .timeoutS | .timeoutR | .drainEnd => none

/-- R96: a datagram that decodes is the packet of its delivery. -/
theorem LinkEvent.packet_toSender {d : Datagram} {p : Packet} (h : decodePacket d = .ok p) :
    (LinkEvent.toSender d).packet = some p := by rw [packet, h]; rfl

theorem LinkEvent.packet_toReceiver {d : Datagram} {p : Packet} (h : decodePacket d = .ok p) :
    (LinkEvent.toReceiver d).packet = some p := by rw [packet, h]; rfl

theorem decodePacket_eq_ok_of_toOption {d : Datagram} {p : Packet} (h : (decodePacket d).toOption = some p) :
    decodePacket d = .ok p := by
  rcases hd : decodePacket d with c | q
  · rw [hd] at h
    cases h
  · rw [hd] at h
    exact congrArg _ (Option.some.inj h)

/-- R76: an event with a packet is that packet's delivery. -/
theorem LinkEvent.toSender_of_packet {ev : LinkEvent} {p : Packet} (he : engineOf ev.instr = some .sender)
    (hp : ev.packet = some p) : ∃ d, ev = .toSender d ∧ decodePacket d = .ok p := by
  cases ev with
  | toSender d => exact ⟨d, rfl, decodePacket_eq_ok_of_toOption hp⟩
  | timeoutS => cases hp
  | toReceiver | timeoutR | drainEnd => cases he

theorem LinkEvent.toReceiver_of_packet {ev : LinkEvent} {p : Packet} (he : engineOf ev.instr = some .receiver)
    (hp : ev.packet = some p) : ∃ d, ev = .toReceiver d ∧ decodePacket d = .ok p := by
  cases ev with
  | toReceiver d => exact ⟨d, rfl, decodePacket_eq_ok_of_toOption hp⟩
  | timeoutR | drainEnd => cases hp
  | toSender | timeoutS => cases he

/-- R269: an event is a step of one peer, and leaves the other. -/
theorem Link.step_cases {l l' : Link} {ev : LinkEvent} (h : l.step ev = .next l') :
    (engineOf ev.instr = some .sender ∧ exec ev.instr l.a = .next l'.a ∧ l'.b = l.b) ∨
      (engineOf ev.instr = some .receiver ∧ exec ev.instr l.b = .next l'.b ∧ l'.a = l.a) := by
  have onA (r : Host.Outcome State Fault Refusal) (h : l.onA r = .next l') : r = .next l'.a ∧ l'.b = l.b := by
    cases r <;> cases h
    exact ⟨rfl, rfl⟩
  have onB (r : Host.Outcome State Fault Refusal) (h : l.onB r = .next l') : r = .next l'.b ∧ l'.a = l.a := by
    cases r <;> cases h
    exact ⟨rfl, rfl⟩
  cases ev with
  | toSender | timeoutS => exact .inl ⟨rfl, onA _ h⟩
  | toReceiver | timeoutR | drainEnd => exact .inr ⟨rfl, onB _ h⟩

/-- R46 to R52: an event keeps the invariant of the peer that takes it. -/
theorem LinkEvent.keeps_blockInv {ev : LinkEvent} {s t : State} (hinv : BlockInv s) (h : exec ev.instr s = .next t) :
    BlockInv t := by
  cases ev with
  | toReceiver d => exact exec_keeps_blockInv (delivered_wf .receiver d) hinv ((exec_rxR_eq_delivered d s).symm.trans h)
  | toSender d => exact exec_keeps_blockInv (delivered_wf .sender d) hinv ((exec_rxS_eq_delivered d s).symm.trans h)
  | timeoutS | timeoutR | drainEnd => exact exec_keeps_blockInv rfl hinv h

/-! ## What an event does to the sender (R150 to R168) -/

/-- R158: the DATA packet of chunk `k`. -/
def dataPacket (img : Bytes) (k : Nat) : Datagram := frame 0x01#8 (BitVec.ofNat 32 k) (fileChunk img k)

/-- R158: the DATA packets of the window that begins at `start`. -/
def windowPackets (img : Bytes) (start : Nat) : List Datagram :=
  (List.range (windowCount start (windowEndOf start (maxSequenceOf img.length)))).map fun k =>
    dataPacket img (start + k)

/-- R157: the state in which the sender serves from `start`. -/
def servingState (img : Bytes) (start : SeqNo) : SState :=
  if maxSequenceOf img.length < (start.toNat : Int) then .doneWait else .sendWait

/-- R157: what it sends there, the window or the DONE. -/
def servedPackets (img : Bytes) (start : SeqNo) : List Datagram :=
  if maxSequenceOf img.length < (start.toNat : Int) then [frame 0x05#8 start []] else windowPackets img start.toNat

theorem mem_windowPackets {img : Bytes} {start : Nat} {d : Datagram} :
    d ∈ windowPackets img start ↔
      ∃ k : Nat, start ≤ k ∧ (k : Int) ≤ windowEndOf start (maxSequenceOf img.length) ∧ d = dataPacket img k := by
  simp only [windowPackets, List.mem_map, List.mem_range, windowCount]
  constructor
  · rintro ⟨k, hk, rfl⟩
    exact ⟨start + k, by omega, by omega, rfl⟩
  · rintro ⟨k, hstart, hend, rfl⟩
    exact ⟨k - start, by omega, by rw [Nat.add_sub_cancel' hstart]⟩

/-- R158: a burst as it stands on the transmit port. -/
theorem dataBurst_datagrams (img : Bytes) (start n : Nat) :
    (dataBurst img start n).filterMap (txOf .sender) = (List.range n).map fun k => dataPacket img (start + k) := by
  simp [dataBurst, dataPacket, List.filterMap_map, Function.comp_def]

/-- R157: the same of a DONE or a burst. -/
theorem servedPackets_eq (img : Bytes) (start : SeqNo) :
    List.filterMap (txOf .sender)
      (if maxSequenceOf img.length < (start.toNat : Int) then [Output.tx .sender (frame 0x05#8 start [])]
      else dataBurst img start.toNat (windowCount start.toNat (windowEndOf start.toNat (maxSequenceOf img.length)))) =
      servedPackets img start := by
  unfold servedPackets
  split_ifs
  · rfl
  · exact dataBurst_datagrams ..

/-- Every way the sender takes an event of a transfer, with the packet that causes it and what it adds to the
transmit port. -/
inductive SenderTurn (ev : LinkEvent) (s t : State) : Prop where
  /-- R152, R153: a datagram that does not decode, or a packet the state does not handle. -/
  | keeps (c : DropClass) (hev : ev ≠ .timeoutS)
      (hp : ∀ p, ev.packet = some p →
        (s.snd.state = .awaitReq → p.op ≠ 0x00#8) ∧ (s.snd.state = .sendWait → p.op ≠ 0x02#8))
      (ht : t.snd = { s.snd with lastDrop := c }) (htx : txPort .sender t = txPort .sender s)
  /-- R154: the requested file is not found. -/
  | reportsMissing (p : Packet) (hp : ev.packet = some p) (hop : p.op = 0x00#8) (hs : s.snd.state = .awaitReq)
      (hfile : fileOpen s p.payload = none)
      (ht : t.snd = { s.snd with toCount := 0, nfCount := 0#1, state := .missing })
      (htx : txPort .sender t = txPort .sender s ++ [frame 0x03#8 0#32 []])
  /-- R154, R155: the requested file is opened and served from its begin. -/
  | opens (p : Packet) (img : Bytes) (hp : ev.packet = some p) (hop : p.op = 0x00#8) (hs : s.snd.state = .awaitReq)
      (hfile : fileOpen s p.payload = some img) (hstart : t.snd.windowStart = 0#32) (ht : t.snd.file = some img)
      (hstate : t.snd.state = servingState img 0#32)
      (htx : txPort .sender t = txPort .sender s ++ servedPackets img 0#32)
  /-- R159: an ACK moves the window. -/
  | advances (p : Packet) (img : Bytes) (hp : ev.packet = some p) (hop : p.op = 0x02#8) (hs : s.snd.state = .sendWait)
      (hfile : s.snd.file = some img) (hn : s.snd.windowStart.toNat < (ackNext p).toNat)
      (hstart : t.snd.windowStart = ackNext p) (ht : t.snd.file = some img)
      (hstate : t.snd.state = servingState img (ackNext p))
      (htx : txPort .sender t = txPort .sender s ++ servedPackets img (ackNext p))
  /-- R159, R161: an ACK that does not move the window, or a timeout below the cap, has it sent again. -/
  | resends (img : Bytes) (n : Nat) (hs : s.snd.state = .sendWait) (hfile : s.snd.file = some img)
      (hcause : (∃ p, ev.packet = some p ∧ p.op = 0x02#8 ∧ (ackNext p).toNat ≤ s.snd.windowStart.toNat) ∨
        (ev = .timeoutS ∧ n = s.snd.toCount + 1))
      (ht : t.snd = { s.snd with toCount := n })
      (htx : txPort .sender t = txPort .sender s ++ windowPackets img s.snd.windowStart.toNat)
  /-- R168: the second FILE_NOT_FOUND. -/
  | reportsAgain (hs : s.snd.state = .missing) (hn : s.snd.nfCount = 0#1) (ht : t.snd = { s.snd with nfCount := 1#1 })
      (htx : txPort .sender t = txPort .sender s ++ [frame 0x03#8 0#32 []])
  /-- R161 to R168: the session ends. -/
  | ends (hs : s.snd.state = .sendWait ∨ s.snd.state = .doneWait ∨ s.snd.state = .missing)
      (hcause : s.snd.state = .sendWait → s.cfg.retryCap ≠ none ∨
        ∃ p, ev.packet = some p ∧ (p.op = 0x04#8 ∨ p.op = 0x06#8))
      (ht : t.snd.state = .terminated) (hstart : t.snd.windowStart.toNat ≤ s.snd.windowStart.toNat)
      (htx : txPort .sender t = txPort .sender s)

section

variable {ev : LinkEvent} {s t : State} {p : Packet}

theorem sTakeFileRequest_turn (hp : ev.packet = some p) (hop : p.op = 0x00#8)
    (h : sTakeFileRequest p.payload s = .ok t) : SenderTurn ev s t := by
  have hev : ev ≠ .timeoutS := by rintro rfl; cases hp
  by_cases hs : s.snd.state = .awaitReq
  · rw [sTakeFileRequest_awaitReq hs] at h
    rcases hfile : fileOpen s p.payload with _ | img
    · rw [takeRequest_missing (s := clearTimeouts .sender s) hfile] at h
      cases h
      exact .reportsMissing p hp hop hs hfile rfl (txPort_output ..)
    · have hempty : maxSequenceOf img.length < ((0#32 : SeqNo).toNat : Int) ↔ img = [] := maxSequenceOf_neg_iff
      rw [takeRequest_opened (s := clearTimeouts .sender s) hfile] at h
      cases h
      refine .opens p img hp hop hs hfile rfl rfl ?_ ?_
      · simp only [servingState, hempty]
      · rw [← servedPackets_eq]
        simp only [hempty]
        exact txPort_outputs .sender (clearTimeouts .sender s) _
  · rw [sTakeFileRequest_ignored hs] at h
    cases h
    refine .keeps .ignored hev (fun q hq => ?_) rfl rfl
    cases hp.symm.trans hq
    exact ⟨fun h => absurd h hs, fun _ => by rw [hop]; decide⟩

theorem sTakeAck_turn (hinv : BlockInv s) (hp : ev.packet = some p) (hop : p.op = 0x02#8)
    (h : sTakeAck (ackNext p) s = .ok t) : SenderTurn ev s t := by
  have hev : ev ≠ .timeoutS := by rintro rfl; cases hp
  obtain ⟨-, hsnd, -⟩ := hinv
  by_cases hs : s.snd.state = .sendWait
  · obtain ⟨img, hready, -, -⟩ := hsnd.sendWait hs
    have hready' : WindowReady (clearTimeouts .sender s).snd img := hready.set_count 0
    rw [sTakeAck_sendWait hs] at h
    by_cases hn : s.snd.windowStart.toNat < (ackNext p).toNat
    · rw [takeAck_advances hready'.opened hready'.buffered hn] at h
      cases h
      refine .advances p img hp hop hs hready.opened.file_eq hn rfl hready.opened.file_eq rfl ?_
      rw [← servedPackets_eq]
      exact txPort_outputs .sender (clearTimeouts .sender s) _
    · rw [takeAck_resends (s := clearTimeouts .sender s) (Nat.not_lt.mp hn), transmitWindow_eq hready'.buffered,
        hready'.bounded] at h
      cases h
      refine .resends img 0 hs hready.opened.file_eq (.inl ⟨p, hp, hop, Nat.not_lt.mp hn⟩) rfl ?_
      rw [windowPackets, ← dataBurst_datagrams]
      exact txPort_outputs .sender (clearTimeouts .sender s) _
  · rw [sTakeAck_ignored hs] at h
    cases h
    refine .keeps .ignored hev (fun q hq => ?_) rfl rfl
    cases hp.symm.trans hq
    exact ⟨fun _ => by rw [hop]; decide, fun h => absurd h hs⟩

/-- A packet of another kind than FILE_REQUEST and ACK, ignored. -/
theorem senderTurn_ignores (hev : ev ≠ .timeoutS) (hp : ∀ q, ev.packet = some q → q.op ≠ 0x00#8 ∧ q.op ≠ 0x02#8)
    (c : DropClass) : SenderTurn ev s (raiseDrop .sender c s) :=
  .keeps c hev (fun q hq => ⟨fun _ => (hp q hq).1, fun _ => (hp q hq).2⟩) rfl rfl

/-- R165: a session that ends with a packet or a timeout sends nothing more. -/
theorem terminateS_turn {u : State} {st : EndStatus}
    (hs : s.snd.state = .sendWait ∨ s.snd.state = .doneWait ∨ s.snd.state = .missing)
    (hcause : s.snd.state = .sendWait → s.cfg.retryCap ≠ none ∨
      ∃ p, ev.packet = some p ∧ (p.op = 0x04#8 ∨ p.op = 0x06#8))
    (hstart : u.snd.windowStart.toNat ≤ s.snd.windowStart.toNat) (htx : txPort .sender u = txPort .sender s) :
    SenderTurn ev s (terminateS st u) :=
  .ends hs hcause rfl hstart (by rw [← htx]; exact (txPort_output ..).trans (List.append_nil _))

theorem endDefensively_turn (hp : ev.packet = some p) (hop : p.op = 0x04#8 ∨ p.op = 0x06#8)
    (hs : s.snd.state = .sendWait ∨ s.snd.state = .doneWait) :
    SenderTurn ev s (endDefensively (clearTimeouts .sender s)) :=
  terminateS_turn (hs.imp_right .inl) (fun _ => .inr ⟨p, hp, hop⟩) (Nat.zero_le _) rfl

theorem sTakeDoneAck_turn (hp : ev.packet = some p) (hop : p.op = 0x06#8) (h : sTakeDoneAck s = .ok t) :
    SenderTurn ev s t := by
  have hev : ev ≠ .timeoutS := by rintro rfl; cases hp
  by_cases hsend : s.snd.state = .sendWait
  · rw [sTakeDoneAck_sendWait hsend] at h
    cases h
    exact endDefensively_turn hp (.inr hop) (.inl hsend)
  by_cases hdone : s.snd.state = .doneWait
  · rw [sTakeDoneAck_doneWait hdone] at h
    cases h
    exact terminateS_turn (.inr (.inl hdone)) (fun h => absurd h hsend) le_rfl rfl
  · rw [sTakeDoneAck_ignored hsend hdone] at h
    cases h
    refine senderTurn_ignores hev (fun q hq => ?_) _
    cases hp.symm.trans hq
    rw [hop]
    decide

theorem sTakeFileNotFoundAck_turn (hp : ev.packet = some p) (hop : p.op = 0x04#8)
    (h : sTakeFileNotFoundAck s = .ok t) : SenderTurn ev s t := by
  have hev : ev ≠ .timeoutS := by rintro rfl; cases hp
  by_cases hsend : s.snd.state = .sendWait ∨ s.snd.state = .doneWait
  · rw [sTakeFileNotFoundAck_sending hsend] at h
    cases h
    exact endDefensively_turn hp (.inl hop) hsend
  by_cases hmissing : s.snd.state = .missing
  · rw [sTakeFileNotFoundAck_missing hmissing] at h
    cases h
    exact terminateS_turn (.inr (.inr hmissing)) (fun h => absurd (.inl h) hsend) le_rfl rfl
  · rw [sTakeFileNotFoundAck_ignored (fun h => hsend (.inl h)) (fun h => hsend (.inr h)) hmissing] at h
    cases h
    refine senderTurn_ignores hev (fun q hq => ?_) _
    cases hp.symm.trans hq
    rw [hop]
    decide

theorem sReceive_turn {d : Datagram} (hinv : BlockInv s) (h : sReceive d s = .ok t) :
    SenderTurn (.toSender d) s t := by
  rcases hd : decodePacket d with c | p
  · rw [sReceive_dropped hd] at h
    cases h
    refine senderTurn_ignores (ev := .toSender d) nofun (fun q hq => ?_) c
    rw [LinkEvent.packet, hd] at hq
    cases hq
  · have hp := LinkEvent.packet_toSender hd
    simp only [sReceive, hd] at h
    split at h
    · next hop => exact sTakeFileRequest_turn hp (BitVec.eq_of_toNat_eq hop) h
    · next hop => exact sTakeAck_turn hinv hp (BitVec.eq_of_toNat_eq hop) h
    · next hop => exact sTakeFileNotFoundAck_turn hp (BitVec.eq_of_toNat_eq hop) h
    · next hop => exact sTakeDoneAck_turn hp (BitVec.eq_of_toNat_eq hop) h
    · next hrequest hack _ _ =>
      cases h
      refine senderTurn_ignores (ev := .toSender d) nofun (fun q hq => ?_) _
      cases hp.symm.trans hq
      exact ⟨fun h => hrequest (by rw [h]; rfl), fun h => hack (by rw [h]; rfl)⟩

/-- R162, R226: without a cap no count reaches it. -/
theorem cap_ne_none_of_capReached {cap : Option Nat} {n : Nat} (h : capReached cap n = true) : cap ≠ none := by
  rintro rfl
  cases h

theorem timeoutSendWait_turn (hinv : BlockInv s) (hs : s.snd.state = .sendWait) (h : timeoutSendWait s = .ok t) :
    SenderTurn .timeoutS s t := by
  obtain ⟨-, hsnd, -⟩ := hinv
  obtain ⟨img, hready, -, -⟩ := hsnd.sendWait hs
  have hready' : WindowReady (countTimeoutS s).1.snd img := hready.set_count _
  unfold timeoutSendWait at h
  split_ifs at h with hcap
  · cases h
    exact terminateS_turn (.inl hs) (fun _ => .inl (cap_ne_none_of_capReached hcap)) le_rfl rfl
  · rw [transmitWindow_eq hready'.buffered, hready'.bounded] at h
    cases h
    refine .resends img _ hs hready.opened.file_eq (.inr ⟨rfl, rfl⟩) rfl ?_
    rw [windowPackets, ← dataBurst_datagrams]
    exact txPort_outputs .sender (countTimeoutS s).1 _

theorem sTimeout_turn (hinv : BlockInv s) (h : sTimeout s = .ok t) : SenderTurn .timeoutS s t := by
  unfold sTimeout at h
  split at h
  case h_1 hs => exact timeoutSendWait_turn hinv hs h
  case h_2 hs =>
    cases h
    exact terminateS_turn (.inr (.inl hs)) (by simp [hs]) le_rfl rfl
  case h_3 hs =>
    unfold timeoutMissing at h
    rw [emitPacket_fileNotFound] at h
    split_ifs at h with hn <;> cases h
    · exact .reportsAgain hs hn rfl (txPort_output ..)
    · exact terminateS_turn (.inr (.inr hs)) (by simp [hs]) le_rfl rfl
  all_goals cases h

/-- An event the sender takes is one of its turns. -/
theorem exec_senderTurn (hinv : BlockInv s) (he : engineOf ev.instr = some .sender) (h : exec ev.instr s = .next t) :
    SenderTurn ev s t := by
  cases ev with
  | toSender d => exact sReceive_turn hinv (outcome_eq_next.mp h)
  | timeoutS => exact sTimeout_turn hinv (outcome_eq_next.mp h)
  | toReceiver | timeoutR | drainEnd => cases he

end

end Sys2Proof.Machine

end

section

namespace Sys2Proof.Machine

open Sys2Proof

/-! ## What an event does to the receiver (R200 to R226) -/

/-- Every way the receiver takes an event of a transfer, with the packet that causes it and what it adds to the
transmit port. -/
inductive ReceiverTurn (ev : LinkEvent) (s t : State) : Prop where
  /-- R203: no session runs. -/
  | ignores (c : DropClass) (hs : ¬ receiverActive s) (ht : t = raiseDrop .receiver c s)
  /-- R202, R203, R205, R221, R225: a datagram dropped or ignored, the end of a drain, or a timeout below the cap. -/
  | runsOn (ds : List Datagram) (hs : receiverActive s)
      (hp : ∀ p, ev.packet = some p → p.op ≠ 0x01#8 ∧ p.op ≠ 0x03#8 ∧ p.op ≠ 0x05#8)
      (hstate : t.rcv.state = s.rcv.state) (hpath : t.rcv.path = s.rcv.path) (hflush : BufferFlushed s t)
      (hcount : t.rcv.toCount = if ev = .timeoutR then s.rcv.toCount + 1 else s.rcv.toCount)
      (htx : txPort .receiver t = txPort .receiver s ++ ds)
      (hds : ∀ d ∈ ds, (∃ path, s.rcv.path = some path ∧ d = frame 0x00#8 0#32 path) ∨ d = ackPacket t.rcv.writeCursor)
      (hack : ev = .timeoutR → s.rcv.state = .receiving →
        ackPacket t.rcv.writeCursor ∈ ds ∧ seen t t.rcv.writeCursor.toNat = false)
  /-- R206, R210: DATA in a session. -/
  | stores (p : Packet) (hp : ev.packet = some p) (hop : p.op = 0x01#8) (hs : receiverActive s)
      (ht : exec (.data .receiver p.seq p.payload) s = .next t)
  /-- R207: DONE in a session. -/
  | finishes (p : Packet) (hp : ev.packet = some p) (hop : p.op = 0x05#8) (hs : receiverActive s)
      (ht : t = doneTaken p.seq (doneStatus p.seq s) s)
  /-- R208: FILE_NOT_FOUND in a session. -/
  | aborts (p : Packet) (hp : ev.packet = some p) (hop : p.op = 0x03#8) (hs : receiverActive s)
      (ht : t = fileNotFoundTaken p.seq s)
  /-- R205, R225: a timeout at the cap. -/
  | exhausts (hev : ev = .timeoutR) (hs : receiverActive s) (hcap : s.cfg.retryCap ≠ none)
      (ht : t = exhaustR (countTimeoutR s).1)

section

variable {ev : LinkEvent} {s t : State} {p : Packet}

/-- R222: the ACK step's one datagram. -/
theorem txPort_acknowledged (s : State) :
    txPort .receiver (acknowledged s) = txPort .receiver s ++ [ackPacket (acknowledged s).rcv.writeCursor] := by
  rw [← txPort_flushed .receiver s]
  exact txPort_output .receiver (flushed s) _

/-- R220: the epilogue sends nothing, or the ACK of the cursor that it leaves. -/
theorem txPort_batchCounted (s : State) :
    ∃ ds, txPort .receiver (batchCounted s) = txPort .receiver s ++ ds ∧
      ∀ d ∈ ds, d = ackPacket (batchCounted s).rcv.writeCursor := by
  unfold batchCounted
  split_ifs
  · exact ⟨_, txPort_acknowledged s, fun d hd => List.mem_singleton.mp hd⟩
  · exact ⟨[], (List.append_nil _).symm, nofun⟩
  · exact ⟨[], (List.append_nil _).symm, nofun⟩

theorem seen_acknowledged_writeCursor (s : State) :
    seen (acknowledged s) (acknowledged s).rcv.writeCursor.toNat = false :=
  ((acknowledged_bufferKept s).seen_eq _).trans (seen_flushed_writeCursor s)

theorem batchCounted_path (s : State) : (batchCounted s).rcv.path = s.rcv.path := by
  unfold batchCounted
  split_ifs <;> rfl

theorem batchCounted_toCount (s : State) : (batchCounted s).rcv.toCount = s.rcv.toCount := by
  unfold batchCounted
  split_ifs <;> rfl

/-- R202, R203: a datagram that the receiver drops or ignores. -/
theorem dropped_turn (hev : ev ≠ .timeoutR)
    (hp : ∀ q, ev.packet = some q → q.op ≠ 0x01#8 ∧ q.op ≠ 0x03#8 ∧ q.op ≠ 0x05#8) (c : DropClass) :
    ReceiverTurn ev s (batchCounted (raiseDrop .receiver c s)) := by
  by_cases hs : receiverActive s
  · obtain ⟨ds, htx, hds⟩ := txPort_batchCounted (raiseDrop .receiver c s)
    exact .runsOn ds hs hp (batchCounted_state _) (batchCounted_path _) (dropped_bufferFlushed c s)
      (by rw [batchCounted_toCount, if_neg hev]; rfl) htx (fun d hd => .inr (hds d hd)) fun h => absurd h hev
  · exact .ignores c hs (batchCounted_eq_self fun h => hs (.inr h))

theorem rReceive_turn {d : Datagram} (h : rReceive d s = .ok t) : ReceiverTurn (.toReceiver d) s t := by
  rcases hd : decodePacket d with c | p
  · rw [rReceive_dropped hd] at h
    cases h
    refine dropped_turn (ev := .toReceiver d) nofun (fun q hq => ?_) c
    rw [LinkEvent.packet, hd] at hq
    cases hq
  · have hp := LinkEvent.packet_toReceiver hd
    simp only [rReceive, hd] at h
    by_cases hs : receiverActive s
    · split at h
      · next hop => exact .stores p hp (BitVec.eq_of_toNat_eq hop) hs (congrArg outcome h)
      · next hop =>
        rw [rTakeFileNotFound_active hs] at h
        cases h
        exact .aborts p hp (BitVec.eq_of_toNat_eq hop) hs rfl
      · next hop =>
        rw [rTakeDone_active hs] at h
        cases h
        exact .finishes p hp (BitVec.eq_of_toNat_eq hop) hs rfl
      · next hdata hmissing hdone =>
        rw [rTakeUnexpected_eq] at h
        cases h
        refine dropped_turn (ev := .toReceiver d) nofun (fun q hq => ?_) _
        cases hp.symm.trans hq
        exact ⟨fun h => hdata (by rw [h]; rfl), fun h => hmissing (by rw [h]; rfl), fun h => hdone (by rw [h]; rfl)⟩
    · refine .ignores .ignored hs ?_
      split at h
      · exact (Except.ok.inj ((rTakeData_ignored hs).symm.trans h)).symm
      · exact (Except.ok.inj ((rTakeFileNotFound_ignored hs).symm.trans h)).symm
      · exact (Except.ok.inj ((rTakeDone_ignored hs).symm.trans h)).symm
      · rw [rTakeUnexpected_eq, batchCounted_ignoreR hs] at h
        exact (Except.ok.inj h).symm

theorem timeoutReqSent_turn (hs : s.rcv.state = .reqSent) (h : timeoutReqSent s = .ok t) :
    ReceiverTurn .timeoutR s t := by
  have hreceiving : ¬ s.rcv.state = .receiving := by simp [hs]
  unfold timeoutReqSent at h
  split_ifs at h with hcap hn
  · cases h
    exact .exhausts rfl (.inl hs) (cap_ne_none_of_capReached hcap) rfl
  · unfold sendRequest at h
    rcases hpath : s.rcv.path with _ | path
    · simp [countTimeoutR, hpath, readReg] at h
    · simp only [countTimeoutR, mapR_rcv, hpath, readReg] at h
      split at h
      · cases h
      · next hemit =>
        obtain ⟨-, rfl⟩ := emitPacket_eq_ok.mp hemit
        cases h
        exact .runsOn [_] (.inl hs) nofun rfl rfl (.inl ⟨rfl, rfl, sinkLog_output _ _⟩) (if_pos rfl).symm
          (txPort_output .receiver (countTimeoutR s).1 _)
          (fun d hd => .inl ⟨path, hpath, List.mem_singleton.mp hd⟩) fun _ h => absurd h hreceiving
  · cases h
    exact .runsOn [] (.inl hs) nofun rfl rfl (.inl (.countTimeout s)) (if_pos rfl).symm (List.append_nil _).symm nofun
      fun _ h => absurd h hreceiving

theorem timeoutReceiving_turn (hs : s.rcv.state = .receiving) (h : timeoutReceiving s = .ok t) :
    ReceiverTurn .timeoutR s t := by
  unfold timeoutReceiving at h
  split_ifs at h with hcap
  · cases h
    exact .exhausts rfl (.inr hs) (cap_ne_none_of_capReached hcap) rfl
  · rw [ackStep_eq] at h
    cases h
    exact .runsOn [_] (.inr hs) nofun rfl rfl
      (.inr ((BufferKept.countTimeout s).flushed.trans (acknowledged_bufferKept _))) (if_pos rfl).symm
      (txPort_acknowledged (countTimeoutR s).1) (fun d hd => .inr (List.mem_singleton.mp hd))
      fun _ _ => ⟨List.mem_singleton_self _, seen_acknowledged_writeCursor _⟩

theorem rTimeout_turn (h : rTimeout s = .ok t) : ReceiverTurn .timeoutR s t := by
  unfold rTimeout at h
  split at h
  case h_1 hs => exact timeoutReqSent_turn hs h
  case h_2 hs => exact timeoutReceiving_turn hs h
  all_goals cases h

theorem rDrainEnd_turn (h : rDrainEnd s = .ok t) : ReceiverTurn .drainEnd s t := by
  unfold rDrainEnd at h
  split at h
  case h_1 hs =>
    split_ifs at h
    rw [ackStep_eq] at h
    cases h
    exact .runsOn [_] (.inr hs) nofun rfl rfl (.inr (acknowledged_bufferKept s)) (if_neg nofun).symm
      (txPort_acknowledged s) (fun d hd => .inr (List.mem_singleton.mp hd)) nofun
  all_goals cases h

/-- An event the receiver takes is one of its turns. -/
theorem exec_receiverTurn (he : engineOf ev.instr = some .receiver) (h : exec ev.instr s = .next t) :
    ReceiverTurn ev s t := by
  cases ev with
  | toReceiver d => exact rReceive_turn (outcome_eq_next.mp h)
  | timeoutR => exact rTimeout_turn (outcome_eq_next.mp h)
  | drainEnd => exact rDrainEnd_turn (outcome_eq_next.mp h)
  | toSender | timeoutS => cases he

end

end Sys2Proof.Machine

end

section

namespace Sys2Proof.Machine

open Sys2Proof

/-! ## What linked peers have sent each other (R78, R304) -/

/-- R62: the file that the path names at the sender. -/
def requestedFile (c : Config) (path : Bytes) : Option Bytes := fileOpen (freshState c) path

theorem requestedFile_length_le {c : Config} {path img : Bytes} (h : requestedFile c path = some img) :
    img.length ≤ fileSizeMax := fileOpen_length_le h

/-- R155, R170, R304: a datagram the sender of a transfer has emitted. -/
inductive SentPacket (c : Config) (path : Bytes) (l : Link) : Datagram → Prop where
  | chunk (img : Bytes) (k : Nat) (hfile : requestedFile c path = some img)
      (hk : (k : Int) ≤ maxSequenceOf img.length)
      (hwindow : l.a.snd.state = .sendWait → (k : Int) ≤ l.a.snd.windowEnd.toInt)
      (hnear : receiverActive l.b → k ≤ l.b.rcv.writeCursor.toNat + 4) : SentPacket c path l (dataPacket img k)
  | done (img : Bytes) (seq : SeqNo) (hfile : requestedFile c path = some img)
      (hseq : (seq.toNat : Int) = maxSequenceOf img.length + 1)
      (hs : l.a.snd.state = .doneWait ∨ l.a.snd.state = .terminated) : SentPacket c path l (frame 0x05#8 seq [])
  | notFound (hfile : requestedFile c path = none) : SentPacket c path l (frame 0x03#8 0#32 [])

/-- R204, R207, R208, R227: a datagram the receiver of a transfer has emitted. -/
inductive SentBack (path : Bytes) (s : State) : Datagram → Prop where
  | request : SentBack path s (frame 0x00#8 0#32 path)
  | ack (next : SeqNo) (hle : next.toNat ≤ s.rcv.writeCursor.toNat) : SentBack path s (ackPacket next)
  | doneAck (seq : SeqNo) (hs : ¬ receiverActive s) : SentBack path s (frame 0x06#8 seq [])
  | notFoundAck (seq : SeqNo) (hs : ¬ receiverActive s) : SentBack path s (frame 0x04#8 seq [])

section

variable {c : Config} {path : Bytes} {l l' : Link} {s t : State} {d : Datagram} {p : Packet}

/-- R25, R170: a chunk's number is a sequence number. -/
theorem chunk_toNat {img : Bytes} {k : Nat} (hfile : requestedFile c path = some img)
    (hk : (k : Int) ≤ maxSequenceOf img.length) : (BitVec.ofNat 32 k).toNat = k := by
  have hlast := (maxSequenceOf_range (requestedFile_length_le hfile)).2
  rw [BitVec.toNat_ofNat]
  exact Nat.mod_eq_of_lt (by omega)

theorem decodePacket_dataPacket (img : Bytes) (k : Nat) :
    decodePacket (dataPacket img k) = .ok (framedPacket 0x01#8 (BitVec.ofNat 32 k) (fileChunk img k)) :=
  decodePacket_frame (by decide) (fileChunk_length_le img k) rfl

theorem decodePacket_ackPacket (next : SeqNo) :
    decodePacket (ackPacket next) = .ok (framedPacket 0x02#8 next (putBE32 next)) :=
  decodePacket_frame (by decide) ((putBE32_length next).trans_le (by decide)) rfl

theorem ackNext_framedPacket (next : SeqNo) : ackNext (framedPacket 0x02#8 next (putBE32 next)) = next :=
  be32_putBE32 next

/-- R170: a DATA of the transfer is the chunk of its number. -/
theorem SentPacket.data (h : SentPacket c path l d) (hd : decodePacket d = .ok p) (hop : p.op = 0x01#8) :
    ∃ img, requestedFile c path = some img ∧ d = dataPacket img p.seq.toNat ∧
      p.payload = fileChunk img p.seq.toNat ∧ (p.seq.toNat : Int) ≤ maxSequenceOf img.length ∧
      (l.a.snd.state = .sendWait → (p.seq.toNat : Int) ≤ l.a.snd.windowEnd.toInt) ∧
      (receiverActive l.b → p.seq.toNat ≤ l.b.rcv.writeCursor.toNat + 4) := by
  cases h with
  | chunk img k hfile hk hwindow hnear =>
    obtain rfl := decodePacket_frame_eq hd
    have hseq : (framedPacket 0x01#8 (BitVec.ofNat 32 k) (fileChunk img k)).seq.toNat = k := chunk_toNat hfile hk
    rw [hseq]
    exact ⟨img, hfile, rfl, rfl, hk, hwindow, hnear⟩
  | done | notFound =>
    obtain rfl := decodePacket_frame_eq hd
    exact absurd hop (by simp [framedPacket])

/-- R157: a DONE of the transfer carries the chunk count. -/
theorem SentPacket.finish (h : SentPacket c path l d) (hd : decodePacket d = .ok p) (hop : p.op = 0x05#8) :
    ∃ img, requestedFile c path = some img ∧ (p.seq.toNat : Int) = maxSequenceOf img.length + 1 ∧
      (l.a.snd.state = .doneWait ∨ l.a.snd.state = .terminated) := by
  cases h with
  | done img seq hfile hseq hs =>
    obtain rfl := decodePacket_frame_eq hd
    exact ⟨img, hfile, hseq, hs⟩
  | chunk | notFound =>
    obtain rfl := decodePacket_frame_eq hd
    exact absurd hop (by simp [framedPacket])

/-- R154: a FILE_NOT_FOUND of the transfer. -/
theorem SentPacket.missing (h : SentPacket c path l d) (hd : decodePacket d = .ok p) (hop : p.op = 0x03#8) :
    requestedFile c path = none := by
  cases h with
  | notFound hfile => exact hfile
  | chunk | done =>
    obtain rfl := decodePacket_frame_eq hd
    exact absurd hop (by simp [framedPacket])

/-- What was sent stays so while the window moves forward and the session runs on. -/
theorem SentPacket.mono (h : SentPacket c path l d)
    (hwindow : l'.a.snd.state = .sendWait →
      l.a.snd.state = .sendWait ∧ l.a.snd.windowEnd.toInt ≤ l'.a.snd.windowEnd.toInt)
    (hend : l.a.snd.state = .doneWait ∨ l.a.snd.state = .terminated →
      l'.a.snd.state = .doneWait ∨ l'.a.snd.state = .terminated)
    (hcursor : receiverActive l'.b →
      receiverActive l.b ∧ l.b.rcv.writeCursor.toNat ≤ l'.b.rcv.writeCursor.toNat) : SentPacket c path l' d := by
  cases h with
  | chunk img k hfile hk hw hn =>
    refine .chunk img k hfile hk (fun hs => ?_) fun hs => ?_
    · obtain ⟨hs, hle⟩ := hwindow hs
      exact (hw hs).trans hle
    · obtain ⟨hs, hle⟩ := hcursor hs
      exact (hn hs).trans (Nat.add_le_add_right hle 4)
  | done img seq hfile hseq hs => exact .done img seq hfile hseq (hend hs)
  | notFound hfile => exact .notFound hfile

/-- R227: an ACK of the transfer acknowledges nothing past the cursor. -/
theorem SentBack.acks (h : SentBack path s d) (hd : decodePacket d = .ok p) (hop : p.op = 0x02#8) :
    d = ackPacket (ackNext p) ∧ (ackNext p).toNat ≤ s.rcv.writeCursor.toNat := by
  cases h with
  | ack next hle =>
    obtain rfl := decodePacket_frame_eq hd
    rw [ackNext_framedPacket]
    exact ⟨rfl, hle⟩
  | request | doneAck | notFoundAck =>
    obtain rfl := decodePacket_frame_eq hd
    exact absurd hop (by simp [framedPacket])

/-- R204: a request of the transfer is for its path. -/
theorem SentBack.requests (h : SentBack path s d) (hd : decodePacket d = .ok p) (hop : p.op = 0x00#8) :
    p.payload = path := by
  cases h with
  | request =>
    obtain rfl := decodePacket_frame_eq hd
    rfl
  | ack | doneAck | notFoundAck =>
    obtain rfl := decodePacket_frame_eq hd
    exact absurd hop (by simp [framedPacket])

/-- R207, R208: the last acknowledgments come from a session that has ended. -/
theorem SentBack.ended (h : SentBack path s d) (hd : decodePacket d = .ok p) (hop : p.op = 0x04#8 ∨ p.op = 0x06#8) :
    ¬ receiverActive s := by
  cases h with
  | doneAck seq hs | notFoundAck seq hs => exact hs
  | request | ack =>
    obtain rfl := decodePacket_frame_eq hd
    exact absurd hop (by simp [framedPacket])

theorem SentBack.mono (h : SentBack path s d) (hcursor : s.rcv.writeCursor.toNat ≤ t.rcv.writeCursor.toNat)
    (hactive : receiverActive t → receiverActive s) : SentBack path t d := by
  cases h with
  | request => exact .request
  | ack next hle => exact .ack next (hle.trans hcursor)
  | doneAck seq hs => exact .doneAck seq (hs ∘ hactive)
  | notFoundAck seq hs => exact .notFoundAck seq (hs ∘ hactive)

/-- R78: where corruption is detectable, a packet delivered is one that was emitted. -/
theorem mayDeliver.mem {sent : List Datagram} (h : mayDeliver .detectable sent d) (hd : decodePacket d = .ok p) :
    d ∈ sent := by
  obtain h | ⟨o, -, -, hbad⟩ := h
  · exact h
  · rw [hd] at hbad
    cases hbad

end

end Sys2Proof.Machine

end

section

namespace Sys2Proof.Machine

open Sys2Proof

/-! ## The invariant of a launched transfer (R304) -/

/-- What holds at every state of a transfer of `path` between a sender with parameters `ca` and a receiver with
parameters `cb`: each peer's packets are the transfer's, the receiver has seen only what was sent, the window does
not pass the cursor, and the sink holds the chunks below it. -/
structure InStep (ca cb : Config) (path : Bytes) (l : Link) : Prop where
  invA : BlockInv l.a
  invB : BlockInv l.b
  cfgA : l.a.cfg = ca
  cfgB : l.b.cfg = cb
  start_le : l.a.snd.windowStart.toNat ≤ l.b.rcv.writeCursor.toNat
  sent : ∀ d ∈ txPort .sender l.a, SentPacket ca path l d
  sentBack : ∀ d ∈ txPort .receiver l.b, SentBack path l.b d
  seen_sent : ∀ n, seen l.b n = true → ∃ img, requestedFile ca path = some img ∧
    (n : Int) ≤ maxSequenceOf img.length ∧ dataPacket img n ∈ txPort .sender l.a
  awaiting : l.a.snd.state = .awaitReq → txPort .sender l.a = []
  serving : l.a.snd.state = .sendWait → l.a.snd.file = requestedFile ca path
  missing : l.a.snd.state = .missing → requestedFile ca path = none
  path_eq : receiverActive l.b → l.b.rcv.path = some path
  reassembled : ∀ img, receiverActive l.b → requestedFile ca path = some img → Reassembled path img l.b
  delivered : l.b.rcv.status = .success →
    ∃ img, requestedFile ca path = some img ∧ sinkLog l.b = .closed path img .success

section

variable {ca cb : Config} {path : Bytes} {l l' : Link} {ev : LinkEvent}

/-- R50: the window in `S_SEND_WAIT`, by the file that the register holds. -/
theorem SenderInv.window_of_file {c : Config} {x : Sender} {img : Bytes} (h : SenderInv c x) (hs : x.state = .sendWait)
    (hfile : x.file = some img) :
    x.maxSequence = some (BitVec.ofInt 33 (maxSequenceOf img.length)) ∧ img.length ≤ fileSizeMax ∧
      x.windowEnd.toInt = windowEndOf x.windowStart.toNat (maxSequenceOf img.length) ∧
      (x.windowStart.toNat : Int) ≤ maxSequenceOf img.length := by
  obtain ⟨img', hready, hle, -⟩ := h.sendWait hs
  cases hready.opened.file_eq.symm.trans hfile
  exact ⟨hready.opened.maxSequence_eq, hready.opened.size_le, hready.bounded, hle⟩

theorem BlockInv.sender {s : State} (h : BlockInv s) : SenderInv s.cfg s.snd := by
  obtain ⟨-, hsnd, -⟩ := h
  exact hsnd

theorem BlockInv.receiver {s : State} (h : BlockInv s) : ReceiverInv s.cfg s.rcv := by
  obtain ⟨-, -, hrcv⟩ := h
  exact hrcv

/-- R304: what is in the seen-set was sent, so it lies in the windows sent so far. -/
theorem InStep.seen_le (h : InStep ca cb path l) {n : Nat} (hn : seen l.b n = true) :
    ∃ img, requestedFile ca path = some img ∧ (n : Int) ≤ maxSequenceOf img.length ∧
      (l.a.snd.state = .sendWait → (n : Int) ≤ l.a.snd.windowEnd.toInt) := by
  obtain ⟨img, hfile, hle, hsent⟩ := h.seen_sent n hn
  obtain ⟨-, -, -, -, -, hwindow, -⟩ := (h.sent _ hsent).data (decodePacket_dataPacket img n) rfl
  have hseq : (framedPacket 0x01#8 (BitVec.ofNat 32 n) (fileChunk img n)).seq.toNat = n := chunk_toNat hfile hle
  rw [hseq] at hwindow
  exact ⟨img, hfile, hle, hwindow⟩

/-- R304: the cursor has not passed the file. -/
theorem InStep.cursor_le_file (h : InStep ca cb path l) {img : Bytes} (hfile : requestedFile ca path = some img) :
    (l.b.rcv.writeCursor.toNat : Int) ≤ maxSequenceOf img.length + 1 := by
  have hmin := (maxSequenceOf_range (requestedFile_length_le hfile)).1
  by_cases hzero : l.b.rcv.writeCursor.toNat = 0
  · omega
  · obtain ⟨img', hfile', hle, -⟩ := h.seen_le (n := l.b.rcv.writeCursor.toNat - 1) (seen_eq_true.mpr (.inl (by omega)))
    cases hfile.symm.trans hfile'
    omega

/-- R304: nor the window. -/
theorem InStep.cursor_le_window (h : InStep ca cb path l) (hs : l.a.snd.state = .sendWait) :
    (l.b.rcv.writeCursor.toNat : Int) ≤ l.a.snd.windowEnd.toInt + 1 := by
  obtain ⟨img, hready, hstart, -⟩ := h.invA.sender.sendWait hs
  have hend := hready.bounded
  unfold WindowBounded windowEndOf at hend
  by_cases hzero : l.b.rcv.writeCursor.toNat = 0
  · omega
  · obtain ⟨-, -, -, hwindow⟩ := h.seen_le (n := l.b.rcv.writeCursor.toNat - 1) (seen_eq_true.mpr (.inl (by omega)))
    have := hwindow hs
    omega

/-! The sender's events. -/

/-- The sender's transmit port only grows. -/
theorem SenderTurn.txPort_append {s t : State} (h : SenderTurn ev s t) :
    ∃ ds, txPort .sender t = txPort .sender s ++ ds := by
  cases h with
  | keeps c hev hp ht htx => exact ⟨[], htx.trans (List.append_nil _).symm⟩
  | ends hs hcause ht hstart htx => exact ⟨[], htx.trans (List.append_nil _).symm⟩
  | reportsMissing | opens | advances | resends | reportsAgain => exact ⟨_, ‹_›⟩

theorem SenderTurn.mem_txPort {s t : State} {d : Datagram} (h : SenderTurn ev s t) (hd : d ∈ txPort .sender s) :
    d ∈ txPort .sender t := by
  obtain ⟨ds, hds⟩ := h.txPort_append
  rw [hds]
  exact List.mem_append_left _ hd

/-- R157, R304: what the sender emits when it serves from a chunk up to the cursor. -/
theorem sentPacket_served {img : Bytes} {start : SeqNo} {d : Datagram} (hinv : BlockInv l.a)
    (hfile : requestedFile ca path = some img) (hopen : l.a.snd.file = some img)
    (hstart : l.a.snd.windowStart = start) (hstate : l.a.snd.state = servingState img start)
    (hle : start.toNat ≤ l.b.rcv.writeCursor.toNat) (hmax : (start.toNat : Int) ≤ maxSequenceOf img.length + 1)
    (hd : d ∈ servedPackets img start) : SentPacket ca path l d := by
  unfold servingState at hstate
  unfold servedPackets at hd
  split_ifs at hstate hd with hlt
  · cases List.mem_singleton.mp hd
    exact .done img start hfile (by omega) (.inl hstate)
  · obtain ⟨-, -, hend, -⟩ := hinv.sender.window_of_file hstate hopen
    obtain ⟨k, -, hk, rfl⟩ := mem_windowPackets.mp hd
    rw [← hstart] at hk hle
    refine .chunk img k hfile ?_ (fun _ => hend ▸ hk) fun _ => ?_
    · unfold windowEndOf at hk
      omega
    · unfold windowEndOf at hk
      omega

/-- R78: the packets of an event are ones the peer has emitted. -/
def FromPort (ev : LinkEvent) (port : List Datagram) : Prop :=
  ∀ p, ev.packet = some p → ∃ d ∈ port, decodePacket d = .ok p

theorem offered_fromPort_sender (he : engineOf ev.instr = some .sender) (ho : l.offered .detectable ev) :
    FromPort ev (txPort .receiver l.b) := by
  intro p hp
  obtain ⟨d, rfl, hd⟩ := LinkEvent.toSender_of_packet he hp
  exact ⟨d, ho.mem hd, hd⟩

theorem offered_fromPort_receiver (he : engineOf ev.instr = some .receiver) (ho : l.offered .detectable ev) :
    FromPort ev (txPort .sender l.a) := by
  intro p hp
  obtain ⟨d, rfl, hd⟩ := LinkEvent.toReceiver_of_packet he hp
  exact ⟨d, ho.mem hd, hd⟩

section

variable {a : State} {p : Packet}

/-- R304: an ACK that is taken acknowledges nothing past the cursor. -/
theorem InStep.ack_le (h : InStep ca cb path l) (hport : FromPort ev (txPort .receiver l.b)) (hp : ev.packet = some p)
    (hop : p.op = 0x02#8) : (ackNext p).toNat ≤ l.b.rcv.writeCursor.toNat := by
  obtain ⟨d, hmem, hd⟩ := hport p hp
  exact ((h.sentBack d hmem).acks hd hop).2

/-- R62, R292: the file that a request names is the transfer's. -/
theorem InStep.fileOpen_eq (h : InStep ca cb path l) (hport : FromPort ev (txPort .receiver l.b))
    (hp : ev.packet = some p) (hop : p.op = 0x00#8) : fileOpen l.a p.payload = requestedFile ca path := by
  obtain ⟨d, hmem, hd⟩ := hport p hp
  rw [(h.sentBack d hmem).requests hd hop, ← h.cfgA]
  rfl

/-- R304: every datagram of the sender's stays or becomes a packet of the transfer. -/
theorem InStep.sent_senderTurn (h : InStep ca cb path l) (hturn : SenderTurn ev l.a a) (hinv : BlockInv a)
    (hport : FromPort ev (txPort .receiver l.b)) : ∀ d ∈ txPort .sender a, SentPacket ca path ⟨a, l.b⟩ d := by
  have old (hnone : a.snd.state ≠ .sendWait)
      (hend : l.a.snd.state = .doneWait ∨ l.a.snd.state = .terminated → a.snd.state = .terminated) :
      ∀ d ∈ txPort .sender l.a, SentPacket ca path ⟨a, l.b⟩ d := fun d hd =>
    (h.sent d hd).mono (fun hs => absurd hs hnone) (fun hs => .inr (hend hs)) fun hs => ⟨hs, le_rfl⟩
  intro d hd
  cases hturn with
  | keeps c hev hp ht htx =>
    rw [htx] at hd
    refine (h.sent d hd).mono ?_ ?_ fun hs => ⟨hs, le_rfl⟩ <;> simp only [ht]
    · exact fun hs => ⟨hs, le_rfl⟩
    · exact id
  | reportsMissing p hp hop hs hfile ht htx =>
    rw [htx, h.awaiting hs] at hd
    cases List.mem_singleton.mp hd
    exact .notFound ((h.fileOpen_eq hport hp hop).symm.trans hfile)
  | opens p img hp hop hs hfile hstart ht hstate htx =>
    have hfile' := (h.fileOpen_eq hport hp hop).symm.trans hfile
    have hmin := (maxSequenceOf_range (requestedFile_length_le hfile')).1
    rw [htx, h.awaiting hs] at hd
    exact sentPacket_served (l := ⟨a, l.b⟩) hinv hfile' ht hstart hstate (Nat.zero_le _)
      (by simp only [BitVec.toNat_ofNat]; omega) hd
  | advances p img hp hop hs hfile hn hstart ht hstate htx =>
    have hfile' := (h.serving hs).symm.trans hfile
    have hack := h.ack_le hport hp hop
    have hcursor := h.cursor_le_file hfile'
    rw [htx] at hd
    obtain hd | hd := List.mem_append.mp hd
    · refine (h.sent d hd).mono (fun hs' => ⟨hs, ?_⟩) (by simp [hs]) fun hs => ⟨hs, le_rfl⟩
      obtain ⟨-, -, hold, -⟩ := h.invA.sender.window_of_file hs hfile
      obtain ⟨-, -, hnew, -⟩ := hinv.sender.window_of_file hs' ht
      rw [hold, hnew, hstart]
      unfold windowEndOf
      omega
    · exact sentPacket_served (l := ⟨a, l.b⟩) hinv hfile' ht hstart hstate hack (by omega) hd
  | resends img n hs hfile hcause ht htx =>
    obtain ⟨-, -, hend, -⟩ := h.invA.sender.window_of_file hs hfile
    have hle := h.start_le
    rw [htx] at hd
    obtain hd | hd := List.mem_append.mp hd
    · refine (h.sent d hd).mono ?_ ?_ fun hs => ⟨hs, le_rfl⟩ <;> simp only [ht]
      · exact fun hs => ⟨hs, le_rfl⟩
      · exact id
    · obtain ⟨k, -, hk, rfl⟩ := mem_windowPackets.mp hd
      refine .chunk img k ((h.serving hs).symm.trans hfile) ?_ (fun _ => ?_) fun _ => ?_
      · unfold windowEndOf at hk
        omega
      · simp only [ht, hend]
        exact hk
      · unfold windowEndOf at hk
        show k ≤ l.b.rcv.writeCursor.toNat + 4
        omega
  | reportsAgain hs hn ht htx =>
    rw [htx] at hd
    obtain hd | hd := List.mem_append.mp hd
    · exact old (by simp [ht, hs]) (by simp [hs]) d hd
    · cases List.mem_singleton.mp hd
      exact .notFound (h.missing hs)
  | ends hs hcause ht hstart htx =>
    rw [htx] at hd
    exact old (by simp [ht]) (fun _ => ht) d hd

/-- R304: an ACK moves the window up to the cursor at most. -/
theorem InStep.start_le_senderTurn (h : InStep ca cb path l) (hturn : SenderTurn ev l.a a)
    (hport : FromPort ev (txPort .receiver l.b)) : a.snd.windowStart.toNat ≤ l.b.rcv.writeCursor.toNat := by
  have hle := h.start_le
  cases hturn with
  | keeps c hev hp ht => simpa only [ht] using hle
  | reportsMissing p hp hop hs hfile ht => simpa only [ht] using hle
  | opens p img hp hop hs hfile hstart => simp [hstart]
  | advances p img hp hop hs hfile hn hstart => exact hstart ▸ h.ack_le hport hp hop
  | resends img n hs hfile hcause ht => simpa only [ht] using hle
  | reportsAgain hs hn ht => simpa only [ht] using hle
  | ends hs hcause ht hstart => exact hstart.trans hle

theorem servingState_cases (img : Bytes) (start : SeqNo) :
    servingState img start = .sendWait ∨ servingState img start = .doneWait := by
  unfold servingState
  split_ifs
  · exact .inr rfl
  · exact .inl rfl

/-- R304: every event of the sender keeps the peers in step. -/
theorem InStep.senderTurn (h : InStep ca cb path l) (hturn : SenderTurn ev l.a a) (hinv : BlockInv a)
    (hcfg : a.cfg = l.a.cfg) (hport : FromPort ev (txPort .receiver l.b)) : InStep ca cb path ⟨a, l.b⟩ where
  invA := hinv
  invB := h.invB
  cfgA := hcfg.trans h.cfgA
  cfgB := h.cfgB
  start_le := h.start_le_senderTurn hturn hport
  sent := h.sent_senderTurn hturn hinv hport
  sentBack := h.sentBack
  seen_sent n hn := by
    obtain ⟨img, hfile, hle, hsent⟩ := h.seen_sent n hn
    exact ⟨img, hfile, hle, hturn.mem_txPort hsent⟩
  awaiting ha := by
    cases hturn with
    | keeps c hev hp ht htx =>
      simp only [ht] at ha
      exact htx.trans (h.awaiting ha)
    | opens p img hp hop hs hfile hstart ht hstate =>
      rcases servingState_cases img 0#32 with he | he <;> simp [hstate, he] at ha
    | advances p img hp hop hs hfile hn hstart ht hstate =>
      rcases servingState_cases img (ackNext p) with he | he <;> simp [hstate, he] at ha
    | reportsMissing | resends | reportsAgain | ends => simp_all
  serving ha := by
    cases hturn with
    | keeps c hev hp ht htx =>
      simp only [ht] at ha ⊢
      exact h.serving ha
    | opens p img hp hop hs hfile hstart ht => exact ht.trans (hfile.symm.trans (h.fileOpen_eq hport hp hop))
    | advances p img hp hop hs hfile hn hstart ht => exact ht.trans (hfile.symm.trans (h.serving hs))
    | resends img n hs hfile hcause ht =>
      simp only [ht]
      exact h.serving hs
    | reportsMissing | reportsAgain | ends => simp_all
  missing ha := by
    cases hturn with
    | keeps c hev hp ht htx =>
      simp only [ht] at ha
      exact h.missing ha
    | reportsMissing p hp hop hs hfile => exact (h.fileOpen_eq hport hp hop).symm.trans hfile
    | reportsAgain hs => exact h.missing hs
    | opens p img hp hop hs hfile hstart ht hstate =>
      rcases servingState_cases img 0#32 with he | he <;> simp [hstate, he] at ha
    | advances p img hp hop hs hfile hn hstart ht hstate =>
      rcases servingState_cases img (ackNext p) with he | he <;> simp [hstate, he] at ha
    | resends | ends => simp_all
  path_eq := h.path_eq
  reassembled := h.reassembled
  delivered := h.delivered

end

end

end Sys2Proof.Machine

end

section

namespace Sys2Proof.Machine

open Sys2Proof

/-! ## The receiver's events keep the peers in step (R304) -/

section

variable {ca cb : Config} {path : Bytes} {l : Link} {ev : LinkEvent} {s t b : State}

theorem not_receiverActive_doneTaken (seq : SeqNo) (st : EndStatus) (s : State) :
    ¬ receiverActive (doneTaken seq st s) := by simp [receiverActive, doneTaken]

theorem not_receiverActive_fileNotFoundTaken (seq : SeqNo) (s : State) :
    ¬ receiverActive (fileNotFoundTaken seq s) := by simp [receiverActive, fileNotFoundTaken]

/-- R209: the last output of a session is no datagram. -/
theorem txPort_doneTaken (seq : SeqNo) (st : EndStatus) (s : State) :
    txPort .receiver (doneTaken seq st s) = txPort .receiver s ++ [frame 0x06#8 seq []] := by
  simp [doneTaken, clearTimeouts, txOf]

theorem txPort_fileNotFoundTaken (seq : SeqNo) (s : State) :
    txPort .receiver (fileNotFoundTaken seq s) = txPort .receiver s ++ [frame 0x04#8 seq []] := by
  simp [fileNotFoundTaken, clearTimeouts, txOf]

theorem txPort_exhaustR (s : State) :
    txPort .receiver (exhaustR (countTimeoutR s).1) = txPort .receiver s := by
  simp [exhaustR, countTimeoutR, txOf]

/-- R206, R220: a chunk is answered with nothing, or with the ACK of the cursor after it. -/
theorem txPort_data {seq : SeqNo} {payload : Bytes} (hs : receiverActive s)
    (h : exec (.data .receiver seq payload) s = .next t) :
    ∃ ds, txPort .receiver t = txPort .receiver s ++ ds ∧ ∀ d ∈ ds, d = ackPacket t.rcv.writeCursor := by
  cases (exec_data_active hs).symm.trans h
  obtain ⟨ds, htx, hds⟩ := txPort_batchCounted (acceptData seq payload (takingData s))
  exact ⟨ds, htx.trans (congrArg (· ++ ds) (txPort_acceptData .receiver seq payload (takingData s))), hds⟩

/-- R43, R211: DATA puts its own number into the seen-set and no other. -/
theorem seen_of_seen_acceptData {seq : SeqNo} {payload : Bytes} {n : Nat}
    (h : seen (acceptData seq payload s) n = true) : seen s n = true ∨ n = seq.toNat := by
  obtain ⟨c, he⟩ | ⟨-, hcursor, he⟩ := acceptData_cases seq payload s <;> rw [he] at h
  · exact .inl h
  · obtain hlt | ⟨k, slot, hn, hk⟩ := seen_eq_true.mp h
    · exact .inl (seen_eq_true.mpr (.inl hlt))
    · simp only [mapR_rcv, List.getElem?_set] at hn hk
      split_ifs at hk with hindex
      · exact .inr (by omega)
      · exact .inl (seen_eq_true.mpr (.inr ⟨k, slot, hn, hk⟩))

theorem seen_of_seen_data {seq : SeqNo} {payload : Bytes} {n : Nat} (hinv : BlockInv s) (hs : receiverActive s)
    (h : exec (.data .receiver seq payload) s = .next t) (hn : seen t n = true) : seen s n = true ∨ n = seq.toNat := by
  cases (exec_data_active hs).symm.trans h
  rw [seen_batchCounted_acceptData hinv] at hn
  exact seen_of_seen_acceptData (s := takingData s) hn

/-- R223: the DONE at most flushes the buffer. -/
theorem seen_doneTaken (hinv : BlockInv s) (seq : SeqNo) (st : EndStatus) (n : Nat) :
    seen (doneTaken seq st s) n = seen s n := by
  have hkept : BufferKept s ((clearTimeouts .receiver s).output (.tx .receiver (frame 0x06#8 seq []))) :=
    (BufferKept.clearTimeouts s).trans (.transmit _ _ _)
  have hflushed : seen (doneTaken seq st s) n = seen (flushed s) n := hkept.flushed.seen_eq n
  rw [hflushed, seen_flushed hinv.slotsBelowMax]

/-- R48: no event moves the cursor back. -/
theorem ReceiverTurn.writeCursor_le (h : ReceiverTurn ev s t) (hinv : BlockInv s) :
    s.rcv.writeCursor.toNat ≤ t.rcv.writeCursor.toNat := by
  cases h with
  | ignores c hs ht => rw [ht]; rfl
  | runsOn ds hs hp hstate hpath hflush =>
    obtain hkept | hflushed := hflush
    · rw [hkept.writeCursor_eq]
    · rw [hflushed.writeCursor_eq]
      exact flushed_writeCursor_le hinv.slotsBelowMax
  | stores p hp hop hs ht => exact writeCursorNeverDecreases _ s t hinv ht nofun hs
  | finishes p hp hop hs ht =>
    exact writeCursorNeverDecreases (.done .receiver p.seq) s t hinv (ht ▸ exec_done_active hs) nofun hs
  | aborts p hp hop hs ht => rw [ht]; rfl
  | exhausts hev hs hcap ht => rw [ht]; rfl

/-- R31: no event starts a session. -/
theorem ReceiverTurn.active_of_active (h : ReceiverTurn ev s t) (ht : receiverActive t) : receiverActive s := by
  cases h with
  | ignores c hs he =>
    subst he
    exact absurd ht hs
  | runsOn _ hs | stores _ _ _ hs | finishes _ _ _ hs | aborts _ _ _ hs | exhausts _ hs => exact hs

/-- R43: what an event puts into the seen-set is the number of its DATA. -/
theorem ReceiverTurn.seen_of_seen (h : ReceiverTurn ev s t) (hinv : BlockInv s) {n : Nat} (hn : seen t n = true) :
    seen s n = true ∨ ∃ p, ev.packet = some p ∧ p.op = 0x01#8 ∧ n = p.seq.toNat := by
  cases h with
  | ignores c hs ht =>
    subst ht
    exact .inl hn
  | runsOn ds hs hp hstate hpath hflush => exact .inl ((hflush.seen_eq hinv.slotsBelowMax n).symm.trans hn)
  | stores p hp hop hs ht => exact (seen_of_seen_data hinv hs ht hn).imp_right fun he => ⟨p, hp, hop, he⟩
  | finishes p hp hop hs ht =>
    rw [ht, seen_doneTaken hinv] at hn
    exact .inl hn
  | aborts p hp hop hs ht =>
    subst ht
    exact .inl hn
  | exhausts hev hs hcap ht =>
    subst ht
    exact .inl hn

/-- R43: nothing leaves the seen-set. -/
theorem ReceiverTurn.seen_mono (h : ReceiverTurn ev s t) (hinv : BlockInv s) {n : Nat} (hn : seen s n = true) :
    seen t n = true := by
  cases h with
  | ignores c hs ht => rw [ht]; exact hn
  | runsOn ds hs hp hstate hpath hflush => exact (hflush.seen_eq hinv.slotsBelowMax n).trans hn
  | stores p hp hop hs ht => exact seen_data hinv hs ht hn
  | finishes p hp hop hs ht => rw [ht, seen_doneTaken hinv, hn]
  | aborts p hp hop hs ht => rw [ht]; exact hn
  | exhausts hev hs hcap ht => rw [ht]; exact hn

/-- R33: no event changes the path. -/
theorem ReceiverTurn.path_eq (h : ReceiverTurn ev s t) : t.rcv.path = s.rcv.path := by
  cases h with
  | ignores c hs ht => rw [ht]; rfl
  | runsOn ds hs hp hstate hpath => exact hpath
  | stores p hp hop hs ht =>
    cases (exec_data_active hs).symm.trans ht
    rw [batchCounted_path]
    obtain ⟨c, he⟩ | ⟨-, -, he⟩ := acceptData_cases p.seq p.payload (takingData s) <;> rw [he] <;> rfl
  | finishes p hp hop hs ht => rw [ht]; rfl
  | aborts p hp hop hs ht => rw [ht]; rfl
  | exhausts hev hs hcap ht => rw [ht]; rfl

/-- R204, R207, R208, R227: what an event adds to the receiver's transmit port. -/
theorem ReceiverTurn.txPort_append (h : ReceiverTurn ev s t) (hpath : receiverActive s → s.rcv.path = some path) :
    ∃ ds, txPort .receiver t = txPort .receiver s ++ ds ∧ ∀ d ∈ ds, SentBack path t d := by
  cases h with
  | ignores c hs ht => exact ⟨[], by rw [ht, List.append_nil]; rfl, nofun⟩
  | runsOn ds hs hp hstate hpath' hflush hcount htx hds =>
    refine ⟨ds, htx, fun d hd => ?_⟩
    obtain ⟨q, hq, rfl⟩ | rfl := hds d hd
    · cases (hpath hs).symm.trans hq
      exact .request
    · exact .ack _ le_rfl
  | stores p hp hop hs ht =>
    obtain ⟨ds, htx, hds⟩ := txPort_data hs ht
    exact ⟨ds, htx, fun d hd => hds d hd ▸ .ack _ le_rfl⟩
  | finishes p hp hop hs ht =>
    subst ht
    refine ⟨_, txPort_doneTaken .., fun d hd => ?_⟩
    cases List.mem_singleton.mp hd
    exact .doneAck _ (not_receiverActive_doneTaken _ _ s)
  | aborts p hp hop hs ht =>
    subst ht
    refine ⟨_, txPort_fileNotFoundTaken .., fun d hd => ?_⟩
    cases List.mem_singleton.mp hd
    exact .notFoundAck _ (not_receiverActive_fileNotFoundTaken _ s)
  | exhausts hev hs hcap ht => exact ⟨[], by rw [ht, txPort_exhaustR, List.append_nil], nofun⟩

/-- R78, R170: a DATA that is taken is a chunk of the transfer's file. -/
theorem InStep.data_eq (h : InStep ca cb path l) (hport : FromPort ev (txPort .sender l.a)) {p : Packet}
    (hp : ev.packet = some p) (hop : p.op = 0x01#8) :
    ∃ img, requestedFile ca path = some img ∧ dataPacket img p.seq.toNat ∈ txPort .sender l.a ∧
      p.payload = fileChunk img p.seq.toNat ∧ (p.seq.toNat : Int) ≤ maxSequenceOf img.length := by
  obtain ⟨d, hmem, hd⟩ := hport p hp
  obtain ⟨img, hfile, rfl, hpayload, hle, -, -⟩ := (h.sent d hmem).data hd hop
  exact ⟨img, hfile, hmem, hpayload, hle⟩

/-- R228: the sink and the slots hold the file's chunks while the session runs. -/
theorem InStep.reassembled_receiverTurn (h : InStep ca cb path l) (hturn : ReceiverTurn ev l.b b)
    (hport : FromPort ev (txPort .sender l.a)) {img : Bytes} (hb : receiverActive b)
    (hfile : requestedFile ca path = some img) : Reassembled path img b := by
  have hr := h.reassembled img (hturn.active_of_active hb) hfile
  cases hturn with
  | ignores c hs ht =>
    subst ht
    exact absurd hb hs
  | runsOn ds hs hp hstate hpath hflush => exact hflush.reassembled h.invB.slotsBelowMax hr
  | stores p hp hop hs ht =>
    obtain ⟨img', hfile', -, hpayload, hle⟩ := h.data_eq hport hp hop
    cases hfile.symm.trans hfile'
    exact hr.data h.invB hs hle (hpayload ▸ ht)
  | finishes p hp hop hs ht => exact absurd (ht ▸ hb) (not_receiverActive_doneTaken _ _ l.b)
  | aborts p hp hop hs ht => exact absurd (ht ▸ hb) (not_receiverActive_fileNotFoundTaken _ l.b)
  | exhausts hev hs hcap ht => exact absurd (ht ▸ hb) (not_receiverActive_exhaustR _)

/-- R32: a session that runs has no status. -/
theorem status_ne_success_of_active (hinv : BlockInv s) (hs : receiverActive s) : s.rcv.status ≠ .success := by
  rw [(hinv.receiver.running hs).1]
  nofun

/-- R228, R305 (c): a session that ends SUCCESS has delivered the file. -/
theorem InStep.delivered_receiverTurn (h : InStep ca cb path l) (hturn : ReceiverTurn ev l.b b) (hinv : BlockInv b)
    (hport : FromPort ev (txPort .sender l.a)) (hst : b.rcv.status = .success) :
    ∃ img, requestedFile ca path = some img ∧ sinkLog b = .closed path img .success := by
  cases hturn with
  | ignores c hs ht =>
    subst ht
    exact h.delivered hst
  | runsOn ds hs hp hstate =>
    have hb : receiverActive b := by rw [receiverActive, hstate]; exact hs
    exact absurd hst (status_ne_success_of_active hinv hb)
  | stores p hp hop hs ht =>
    exact absurd hst (status_ne_success_of_active hinv (receiverActive_data hs ht))
  | finishes p hp hop hs ht =>
    obtain ⟨d, hmem, hd⟩ := hport p hp
    obtain ⟨img, hfile, hseq, -⟩ := (h.sent d hmem).finish hd hop
    have hstatus : doneStatus p.seq l.b = .success := by rw [ht] at hst; exact hst
    refine ⟨img, hfile, ?_⟩
    rw [ht, hstatus]
    exact (h.reassembled img hs hfile).closed h.invB.slotsBelowMax hseq hstatus
  | aborts p hp hop hs ht =>
    rw [ht] at hst
    cases hst
  | exhausts hev hs hcap ht =>
    rw [ht] at hst
    cases hst

/-- R304: every event of the receiver keeps the peers in step. -/
theorem InStep.receiverTurn (h : InStep ca cb path l) (hturn : ReceiverTurn ev l.b b) (hinv : BlockInv b)
    (hcfg : b.cfg = l.b.cfg) (hport : FromPort ev (txPort .sender l.a)) : InStep ca cb path ⟨l.a, b⟩ where
  invA := h.invA
  invB := hinv
  cfgA := h.cfgA
  cfgB := hcfg.trans h.cfgB
  start_le := h.start_le.trans (hturn.writeCursor_le h.invB)
  sent d hd := (h.sent d hd).mono (fun hs => ⟨hs, le_rfl⟩) id fun hs =>
    ⟨hturn.active_of_active hs, hturn.writeCursor_le h.invB⟩
  sentBack d hd := by
    obtain ⟨ds, htx, hds⟩ := hturn.txPort_append h.path_eq
    have hd : d ∈ txPort .receiver b := hd
    rw [htx] at hd
    obtain hd | hd := List.mem_append.mp hd
    · exact (h.sentBack d hd).mono (hturn.writeCursor_le h.invB) hturn.active_of_active
    · exact hds d hd
  seen_sent n hn := by
    obtain hold | ⟨p, hp, hop, rfl⟩ := hturn.seen_of_seen h.invB hn
    · exact h.seen_sent n hold
    · obtain ⟨img, hfile, hmem, -, hle⟩ := h.data_eq hport hp hop
      exact ⟨img, hfile, hle, hmem⟩
  awaiting := h.awaiting
  serving := h.serving
  missing := h.missing
  path_eq hs := hturn.path_eq.trans (h.path_eq (hturn.active_of_active hs))
  reassembled img hb hfile := h.reassembled_receiverTurn hturn hport hb hfile
  delivered := h.delivered_receiverTurn hturn hinv hport

/-! ## Launched transfers (R292, R304, R305) -/

/-- R304: every event that the environment offers keeps the peers in step. -/
theorem InStep.step (h : InStep ca cb path l) {l' : Link} (ho : l.offered .detectable ev)
    (hstep : l.step ev = .next l') : InStep ca cb path l' := by
  obtain ⟨a', b'⟩ := l'
  obtain ⟨he, hexec, rfl⟩ | ⟨he, hexec, rfl⟩ := Link.step_cases hstep
  · exact h.senderTurn (exec_senderTurn h.invA he hexec) (LinkEvent.keeps_blockInv h.invA hexec)
      (exec_outputsAppended hexec).cfg_eq (offered_fromPort_sender he ho)
  · exact h.receiverTurn (exec_receiverTurn he hexec) (LinkEvent.keeps_blockInv h.invB hexec)
      (exec_outputsAppended hexec).cfg_eq (offered_fromPort_receiver he ho)

theorem freshState_inv {c : Config} (hc : c.wf = true) : BlockInv (freshState c) :=
  ⟨hc, senderInv_reset hc (.inl rfl), receiverInv_reset hc⟩

/-- R292, R151: the sender of a launched transfer waits for a request. -/
theorem launched_sender (hl : Link.launched ca cb path l) :
    l.a.snd = { Sender.reset with state := .awaitReq } ∧ txPort .sender l.a = [] := by
  obtain ⟨a, b⟩ := l
  obtain ⟨hserve, -⟩ := hl
  obtain ⟨hstart, -⟩ := serveStartsASessionOrIsBusy (freshState ca)
  cases (hstart (.inl rfl)).symm.trans hserve
  exact ⟨rfl, rfl⟩

/-- R292, R201: the receiver of a launched transfer has asked for the path, or refused it. -/
theorem launched_receiver (hl : Link.launched ca cb path l) :
    (path.length ≤ chunkSize → l.b.rcv.state = .reqSent) ∧ l.b.rcv.status = .none ∧
      (∀ n, seen l.b n = false) ∧ (∀ d ∈ txPort .receiver l.b, SentBack path l.b d) ∧
      (receiverActive l.b → l.b.rcv.path = some path) ∧
      ∀ img, receiverActive l.b → Reassembled path img l.b := by
  have hfresh (n : Nat) : seen (freshState cb) n = false := by
    simp [seen, freshState, Receiver.reset, List.getD_eq_getElem?_getD, List.getElem?_replicate]
    split_ifs <;> rfl
  obtain ⟨a, b⟩ := l
  obtain ⟨-, hfetch⟩ := hl
  have hidle : ¬ receiverActive (freshState cb) := by simp [receiverActive, freshState, Receiver.reset]
  obtain ⟨-, hlong, hstart⟩ := fetchStartsASessionOrIsRefused (freshState cb) path
  by_cases hp : path.length ≤ chunkSize
  · cases (hstart hidle hp).symm.trans hfetch
    refine ⟨fun _ => rfl, rfl, hfresh, ?_, fun _ => rfl, fun img _ => ⟨rfl, fun k slot hk => ?_⟩⟩
    · intro d hd
      cases List.mem_singleton.mp hd
      exact .request
    · simp [List.getElem?_replicate] at hk
  · cases (hlong hidle (Nat.not_le.mp hp)).symm.trans hfetch
    exact ⟨fun h => absurd h hp, rfl, hfresh, nofun, fun h => absurd h hidle, fun _ h => absurd h hidle⟩

/-- R292, R304: a launched transfer begins in step. -/
theorem InStep.launched (hca : ca.wf = true) (hcb : cb.wf = true) (hl : Link.launched ca cb path l) :
    InStep ca cb path l := by
  obtain ⟨hsnd, htx⟩ := launched_sender hl
  obtain ⟨-, hst, hseen, hback, hpath, hr⟩ := launched_receiver hl
  obtain ⟨hserve, hfetch⟩ := hl
  exact
    { invA := exec_keeps_blockInv rfl (freshState_inv hca) hserve
      invB := exec_keeps_blockInv rfl (freshState_inv hcb) hfetch
      cfgA := (exec_outputsAppended hserve).cfg_eq
      cfgB := (exec_outputsAppended hfetch).cfg_eq
      start_le := by rw [hsnd]; exact Nat.zero_le _
      sent := by rw [htx]; nofun
      sentBack := hback
      seen_sent := fun n hn => by rw [hseen n] at hn; cases hn
      awaiting := fun _ => htx
      serving := fun h => by rw [hsnd] at h; cases h
      missing := fun h => by rw [hsnd] at h; cases h
      path_eq := hpath
      reassembled := fun img hs _ => hr img hs
      delivered := fun h => by rw [hst] at h; cases h }

/-- R304: the peers of a launched transfer are in step at every state of every run. -/
theorem InStep.run (hca : ca.wf = true) (hcb : cb.wf = true) {l0 : Link} (hl : Link.launched ca cb path l0)
    (hrun : Link.Run .detectable l0 l) : InStep ca cb path l := by
  induction hrun with
  | start => exact .launched hca hcb hl
  | next m n ev _ ho hstep ih => exact ih.step ho hstep

/-- Settles O58: the packets on the channel are those of a transfer in step. -/
theorem conformingPeersStayInStep : Obligations.ConformingPeersStayInStep := by
  intro ca cb path l0 l hca hcb hl hrun
  have h := InStep.run hca hcb hl hrun
  refine ⟨h.start_le, fun d p m ho hd hop hs hm => ?_, fun d p ho hd hop hb => ?_⟩
  · obtain ⟨-, hack⟩ := (h.sentBack d (ho.mem hd)).acks hd hop
    have hwindow := h.cursor_le_window hs
    obtain ⟨img, hready, -, -⟩ := h.invA.sender.sendWait hs
    have hfile := h.cursor_le_file ((h.serving hs).symm.trans hready.opened.file_eq)
    cases hready.opened.maxSequence_eq.symm.trans hm
    rw [hready.opened.maxSequence_toInt]
    omega
  · obtain ⟨-, -, -, -, -, -, hnear⟩ := (h.sent d (ho.mem hd)).data hd hop
    exact hnear hb

/-- Settles O59: the sink of a session that ended SUCCESS is closed on the file of the path. -/
theorem successDeliversTheFile : Obligations.SuccessDeliversTheFile := by
  intro ca cb path l0 l hca hcb hl hrun hst
  obtain ⟨img, hfile, hsink⟩ := (InStep.run hca hcb hl hrun).delivered hst
  obtain ⟨hlookup, hlen⟩ := fileOpen_eq_some.mp hfile
  exact ⟨img, hlookup, hlen, by rw [sinkView, hsink]⟩

end

end Sys2Proof.Machine

end

section

namespace Sys2Proof.Machine

open Sys2Proof Filter

/-! ## Sequences: what settles, and what happens again and again -/

section

variable {P : Nat → Prop} {f : Nat → Nat} {B : Nat}

theorem eventually_succ (h : ∀ᶠ n in atTop, P n) : ∀ᶠ n in atTop, P (n + 1) := (tendsto_add_atTop_nat 1).eventually h

/-- What happens after some event and is kept by every later one holds from then on. -/
theorem eventually_of_frequently_succ (hf : ∃ᶠ n in atTop, P (n + 1)) (hstep : ∀ᶠ n in atTop, P n → P (n + 1)) :
    ∀ᶠ n in atTop, P n := by
  obtain ⟨N, hN⟩ := eventually_atTop.mp hstep
  obtain ⟨n, hn, hP⟩ := frequently_atTop.mp hf N
  exact eventually_atTop.mpr ⟨n + 1, fun m hm => Nat.le_induction hP (fun k hk => hN k (by omega)) m hm⟩

/-- A bounded count that does not go down settles. -/
theorem eventually_eq_of_monotone (hmono : ∀ᶠ n in atTop, f n ≤ f (n + 1)) (hB : ∀ n, f n ≤ B) :
    ∃ c, ∀ᶠ n in atTop, f n = c := by
  obtain ⟨N, hN⟩ := eventually_atTop.mp hmono
  have hg : Monotone fun k => f (k + N) := monotone_nat_of_le_succ fun k => by
    rw [Nat.succ_add]
    exact hN (k + N) (Nat.le_add_left N k)
  have hlim := tendsto_atTop_ciSup hg ⟨B, by rintro _ ⟨k, rfl⟩; exact hB _⟩
  rw [nhds_discrete, tendsto_pure] at hlim
  obtain ⟨K, hK⟩ := eventually_atTop.mp hlim
  refine ⟨⨆ k, f (k + N), eventually_atTop.mpr ⟨K + N, fun n hn => ?_⟩⟩
  have hn' := hK (n - N) (by omega)
  rwa [Nat.sub_add_cancel (by omega)] at hn'

/-- Registers with a bounded code that does not go down settle. -/
theorem eventually_eq_of_code {α : Type} {g : Nat → α} {code : α → Nat} (hinj : Function.Injective code)
    (hmono : ∀ᶠ n in atTop, code (g n) ≤ code (g (n + 1))) (hB : ∀ n, code (g n) ≤ B) :
    ∃ x, ∀ᶠ n in atTop, g n = x := by
  obtain ⟨c, hc⟩ := eventually_eq_of_monotone hmono hB
  obtain ⟨N, hN⟩ := eventually_atTop.mp hc
  exact ⟨g N, eventually_atTop.mpr ⟨N, fun n hn => hinj ((hN n hn).trans (hN N le_rfl).symm)⟩⟩

/-- A bounded count that goes up again and again goes down again and again. -/
theorem frequently_decreases (hB : ∀ n, f n ≤ B) (hup : ∃ᶠ n in atTop, f n < f (n + 1)) :
    ∃ᶠ n in atTop, f (n + 1) < f n := by
  intro hnever
  obtain ⟨c, hc⟩ := eventually_eq_of_monotone (hnever.mono fun n => Nat.le_of_not_lt) hB
  obtain ⟨n, hlt, hn, hn'⟩ := (hup.and_eventually (hc.and (eventually_succ hc))).exists
  omega

/-- Of finitely many things, when some happens again and again, one does. -/
theorem exists_frequently {α : Type} [Finite α] {Q : α → Nat → Prop} (h : ∃ᶠ n in atTop, ∃ x, Q x n) :
    ∃ x, ∃ᶠ n in atTop, Q x n := by
  by_contra hnone
  refine h ((eventually_all.mpr fun x => not_frequently.mp fun hx => hnone ⟨x, hx⟩).mono ?_)
  exact fun n hn ⟨x, hx⟩ => hn x hx

end

/-! ## Emission and delivery (R78, R79) -/

section

variable {port : Nat → List Datagram} {d : Datagram}

/-- Step `n` emits `d` on the port. -/
def EmitsAt (port : Nat → List Datagram) (d : Datagram) (n : Nat) : Prop := (port n).count d < (port (n + 1)).count d

theorem emitsAt_of_append {n : Nat} {ds : List Datagram} (h : port (n + 1) = port n ++ ds) (hd : d ∈ ds) :
    EmitsAt port d n := by
  have hpos := List.count_pos_iff.mpr hd
  rw [EmitsAt, h, List.count_append]
  omega

theorem not_emitsAt_of_eq {n : Nat} (h : port (n + 1) = port n) : ¬ EmitsAt port d n := by
  rw [EmitsAt, h]
  exact Nat.lt_irrefl _

theorem mem_of_emitsAt {n : Nat} {ds : List Datagram} (h : port (n + 1) = port n ++ ds) (he : EmitsAt port d n) :
    d ∈ ds := by
  rw [EmitsAt, h, List.count_append] at he
  exact List.count_pos_iff.mp (by omega)

/-- Where the channel duplicates finitely, what is delivered again and again is emitted again and again. -/
theorem frequently_emitsAt {delivers : Nat → Prop} (hgrow : ∀ n, ∃ ds, port (n + 1) = port n ++ ds)
    (hdup : ∀ n, d ∈ port n → (∀ m, n ≤ m → (port m).count d = (port n).count d) → ∃ k, ∀ m, k ≤ m → ¬ delivers m)
    (hmem : ∀ n, delivers n → d ∈ port n) (hf : ∃ᶠ n in atTop, delivers n) : ∃ᶠ n in atTop, EmitsAt port d n := by
  intro hnever
  obtain ⟨N, hN⟩ := eventually_atTop.mp hnever
  obtain ⟨n, hn, hd⟩ := frequently_atTop.mp hf N
  have hcount (m : Nat) (hm : n ≤ m) : (port m).count d = (port n).count d := by
    induction m, hm using Nat.le_induction with
    | base => rfl
    | succ m hm ih =>
      have hstep : ¬ EmitsAt port d m := hN m (by omega)
      obtain ⟨ds, hds⟩ := hgrow m
      rw [EmitsAt, hds, List.count_append] at hstep
      rw [hds, List.count_append]
      omega
  obtain ⟨k, hk⟩ := hdup n (hmem n hd) hcount
  obtain ⟨m, hm, hd'⟩ := frequently_atTop.mp hf k
  exact hk m hm hd'

end

end Sys2Proof.Machine

end

section

namespace Sys2Proof.Machine

open Sys2Proof

/-! ## Session states move forward (R150, R200) -/

section

variable {ca cb : Config} {path : Bytes} {l : Link} {ev : LinkEvent} {s t a b : State} {p : Packet}

/-- R150: the codes of the sender's states go up in a transfer. -/
theorem SenderTurn.code_le (h : SenderTurn ev s t) : s.snd.state.code.toNat ≤ t.snd.state.code.toNat := by
  cases h with
  | keeps c hev hp ht => rw [ht]
  | reportsMissing p hp hop hs hfile ht =>
    have hst : t.snd.state = .missing := by rw [ht]
    rw [hs, hst]
    decide
  | opens p img hp hop hs hfile hstart ht hstate =>
    rw [hs, hstate]
    rcases servingState_cases img 0#32 with he | he <;> simp [he, SState.code]
  | advances p img hp hop hs hfile hn hstart ht hstate =>
    rw [hs, hstate]
    rcases servingState_cases img (ackNext p) with he | he <;> simp [he, SState.code]
  | resends img n hs hfile hcause ht => rw [ht]
  | reportsAgain hs hn ht => rw [ht]
  | ends hs hcause ht => rw [ht]; exact SState.code_le _

/-- R200: so do the receiver's. -/
theorem ReceiverTurn.code_le (h : ReceiverTurn ev s t) : s.rcv.state.code.toNat ≤ t.rcv.state.code.toNat := by
  have active (hs : receiverActive s) : s.rcv.state.code.toNat ≤ 2 := by
    rcases hs with hs | hs <;> simp [hs, RState.code]
  have ended (st : RState) (hs : receiverActive s) (ht : t.rcv.state = st) (hst : 2 ≤ st.code.toNat) :
      s.rcv.state.code.toNat ≤ t.rcv.state.code.toNat := by
    rw [ht]
    exact (active hs).trans hst
  cases h with
  | ignores c hs ht => rw [ht]; rfl
  | runsOn ds hs hp hstate => rw [hstate]
  | stores p hp hop hs ht =>
    cases (exec_data_active hs).symm.trans ht
    rw [batchCounted_state, acceptData_state]
    exact active hs
  | finishes p hp hop hs ht => exact ended .flushedOnDone hs (by rw [ht]; rfl) (by decide)
  | aborts p hp hop hs ht => exact ended .abortedOnMissing hs (by rw [ht]; rfl) (by decide)
  | exhausts hev hs hcap ht => exact ended .failed hs (by rw [ht]; rfl) (by decide)

/-! ## Turns in `S_SEND_WAIT` and `S_MISSING` (R159, R161, R168) -/

/-- R47: the window does not move back. -/
theorem SenderTurn.windowStart_le (h : SenderTurn ev s t) (hs : s.snd.state = .sendWait)
    (ht : t.snd.state = .sendWait) : s.snd.windowStart.toNat ≤ t.snd.windowStart.toNat := by
  cases h with
  | keeps c hev hp he => rw [he]
  | advances p img hp hop _ hfile hn hstart => rw [hstart]; exact hn.le
  | resends img n _ hfile hcause he => rw [he]
  | reportsMissing | opens | reportsAgain | ends => simp_all

/-- R161: a timeout below the cap has the window sent again. -/
theorem SenderTurn.resent (h : SenderTurn .timeoutS s t) (hs : s.snd.state = .sendWait)
    (ht : t.snd.state = .sendWait) :
    ∃ img, s.snd.file = some img ∧ t.snd.toCount = s.snd.toCount + 1 ∧
      txPort .sender t = txPort .sender s ++ windowPackets img s.snd.windowStart.toNat := by
  cases h with
  | resends img n _ hfile hcause he htx =>
    obtain ⟨p, hp, -⟩ | ⟨-, rfl⟩ := hcause
    · cases hp
    · exact ⟨img, hfile, by rw [he], htx⟩
  | keeps _ hev => exact absurd rfl hev
  | reportsMissing p hp | opens p img hp | advances p img hp => cases hp
  | reportsAgain | ends => simp_all

/-- R159: an ACK above the window's start moves it. -/
theorem SenderTurn.moved (h : SenderTurn ev s t) (hs : s.snd.state = .sendWait) (ht : t.snd.state = .sendWait)
    (hp : ev.packet = some p) (hop : p.op = 0x02#8) (hn : s.snd.windowStart.toNat < (ackNext p).toNat) :
    t.snd.windowStart = ackNext p := by
  cases h with
  | keeps c hev hq => exact absurd hop ((hq p hp).2 hs)
  | advances q img hq hop' _ hfile hn' hstart =>
    cases hp.symm.trans hq
    exact hstart
  | resends img n _ hfile hcause he =>
    obtain ⟨q, hq, -, hle⟩ | ⟨rfl, -⟩ := hcause
    · cases hp.symm.trans hq
      omega
    · cases hp
  | reportsMissing | opens | reportsAgain | ends => simp_all

/-- R159, R161: only an ACK takes the count of timeouts down. -/
theorem SenderTurn.ack_of_count_lt (h : SenderTurn ev s t) (hs : s.snd.state = .sendWait)
    (ht : t.snd.state = .sendWait) (hlt : t.snd.toCount < s.snd.toCount) : ∃ p, ev.packet = some p ∧ p.op = 0x02#8 := by
  cases h with
  | keeps c hev hq he => simp [he] at hlt
  | advances p img hp hop => exact ⟨p, hp, hop⟩
  | resends img n _ hfile hcause he =>
    obtain ⟨p, hp, hop, -⟩ | ⟨-, rfl⟩ := hcause
    · exact ⟨p, hp, hop⟩
    · simp only [he] at hlt
      omega
  | reportsMissing | opens | reportsAgain | ends => simp_all

/-- R168: in `S_MISSING` a timeout is the second FILE_NOT_FOUND, and nothing takes it back. -/
theorem SenderTurn.nfCount_le (h : SenderTurn ev s t) (hs : s.snd.state = .missing) (ht : t.snd.state = .missing) :
    s.snd.nfCount.toNat ≤ t.snd.nfCount.toNat ∧ (ev = .timeoutS → s.snd.nfCount.toNat < t.snd.nfCount.toNat) := by
  cases h with
  | keeps c hev hq he => exact ⟨by rw [he], fun h => absurd h hev⟩
  | reportsAgain _ hn he => simp [he, hn]
  | reportsMissing | opens | advances | resends | ends => simp_all

/-- R154: a request that is taken ends the wait for one. -/
theorem SenderTurn.leaves_awaitReq (h : SenderTurn ev s t) (hp : ev.packet = some p) (hop : p.op = 0x00#8) :
    t.snd.state ≠ .awaitReq := by
  intro ht
  cases h with
  | keeps c hev hq he =>
    rw [he] at ht
    exact (hq p hp).1 ht hop
  | opens p img hp hop hs hfile hstart _ hstate =>
    rcases servingState_cases img 0#32 with he | he <;> simp [hstate, he] at ht
  | advances p img hp hop hs hfile hn hstart _ hstate =>
    rcases servingState_cases img (ackNext p) with he | he <;> simp [hstate, he] at ht
  | reportsMissing | resends | reportsAgain | ends => simp_all

/-- R154, R158: in a session state that does not change, only `S_SEND_WAIT` emits DATA. -/
theorem SenderTurn.sendWait_of_emits (h : SenderTurn ev s t) (hstate : t.snd.state = s.snd.state)
    {ds : List Datagram} {d : Datagram} (htx : txPort .sender t = txPort .sender s ++ ds) (hd : d ∈ ds)
    (hp : decodePacket d = .ok p) (hop : p.op = 0x01#8) : s.snd.state = .sendWait := by
  have reports (htx' : txPort .sender t = txPort .sender s ++ [frame 0x03#8 0#32 []]) : False := by
    cases List.append_cancel_left (htx.symm.trans htx')
    cases List.mem_singleton.mp hd
    cases decodePacket_frame_eq hp
    cases hop
  have silent (htx' : txPort .sender t = txPort .sender s) : False := by
    have hnil : ds = [] := List.append_right_eq_self.mp (htx.symm.trans htx')
    simp [hnil] at hd
  cases h with
  | advances p img _ _ hs => exact hs
  | resends img n hs => exact hs
  | opens p img _ _ hs hfile hstart _ hst =>
    rcases servingState_cases img 0#32 with he | he <;> simp [hstate, hs, he] at hst
  | reportsMissing _ _ _ _ _ _ htx' | reportsAgain _ _ _ htx' => exact (reports htx').elim
  | keeps _ _ _ _ htx' | ends _ _ _ _ htx' => exact (silent htx').elim

/-! ## Turns of a running receiver (R205 to R211, R225) -/

/-- R206, R210: DATA leaves the session in `R_RECEIVING`. -/
theorem ReceiverTurn.receiving_of_data (h : ReceiverTurn ev s t) (hs : receiverActive s) (hp : ev.packet = some p)
    (hop : p.op = 0x01#8) : t.rcv.state = .receiving ∧ exec (.data .receiver p.seq p.payload) s = .next t := by
  cases h with
  | stores q hq _ _ ht =>
    cases hp.symm.trans hq
    refine ⟨?_, ht⟩
    cases (exec_data_active hs).symm.trans ht
    rw [batchCounted_state, acceptData_state]
    rfl
  | runsOn ds _ hq => exact absurd hop (hq p hp).1
  | exhausts hev => exact absurd hp (by rw [hev]; nofun)
  | ignores | finishes | aborts => simp_all

/-- R205, R225: a timeout counts, where it does not end the session. -/
theorem ReceiverTurn.counted (h : ReceiverTurn .timeoutR s t) (hs : receiverActive s) (ht : receiverActive t) :
    t.rcv.toCount = s.rcv.toCount + 1 := by
  cases h with
  | ignores c hs' => exact absurd hs hs'
  | runsOn ds _ _ _ _ _ hcount => exact hcount
  | stores p hp | finishes p hp | aborts p hp => cases hp
  | exhausts _ _ _ he => exact absurd (he ▸ ht) (not_receiverActive_exhaustR _)

/-- R225: in `R_RECEIVING` it acknowledges the cursor, which is not in the seen-set. -/
theorem ReceiverTurn.acked (h : ReceiverTurn .timeoutR s t) (hs : s.rcv.state = .receiving) (ht : receiverActive t) :
    ∃ ds, txPort .receiver t = txPort .receiver s ++ ds ∧ ackPacket t.rcv.writeCursor ∈ ds ∧
      seen t t.rcv.writeCursor.toNat = false := by
  cases h with
  | ignores c hs' => exact absurd (.inr hs) hs'
  | runsOn ds _ _ _ _ _ _ htx _ hack =>
    obtain ⟨hmem, hnew⟩ := hack rfl hs
    exact ⟨ds, htx, hmem, hnew⟩
  | stores p hp | finishes p hp | aborts p hp => cases hp
  | exhausts _ _ _ he => exact absurd (he ▸ ht) (not_receiverActive_exhaustR _)

/-- R206, R226: only DATA takes the count of timeouts down while the session runs. -/
theorem ReceiverTurn.data_of_count_lt (h : ReceiverTurn ev s t) (hs : receiverActive s) (ht : receiverActive t)
    (hlt : t.rcv.toCount < s.rcv.toCount) : ∃ p, ev.packet = some p ∧ p.op = 0x01#8 := by
  cases h with
  | ignores c hs' => exact absurd hs hs'
  | runsOn ds _ _ _ _ _ hcount =>
    rw [hcount] at hlt
    split_ifs at hlt <;> omega
  | stores p hp hop => exact ⟨p, hp, hop⟩
  | finishes p _ _ _ he => exact absurd (he ▸ ht) (not_receiverActive_doneTaken _ _ s)
  | aborts p _ _ _ he => exact absurd (he ▸ ht) (not_receiverActive_fileNotFoundTaken _ s)
  | exhausts _ _ _ he => exact absurd (he ▸ ht) (not_receiverActive_exhaustR _)

/-- R203: a session that has ended emits nothing. -/
theorem ReceiverTurn.txPort_ended (h : ReceiverTurn ev s t) (hs : ¬ receiverActive s) :
    txPort .receiver t = txPort .receiver s := by
  cases h with
  | ignores c _ ht => rw [ht]; rfl
  | runsOn _ hs' | stores _ _ _ hs' | finishes _ _ _ hs' | aborts _ _ _ hs' | exhausts _ hs' => exact absurd hs' hs

/-- R207, R208: DONE and FILE_NOT_FOUND end the session. -/
theorem ReceiverTurn.ends_of_decisive (h : ReceiverTurn ev s t) (hp : ev.packet = some p)
    (hop : p.op = 0x05#8 ∨ p.op = 0x03#8) : ¬ receiverActive t := by
  cases h with
  | ignores c hs ht =>
    subst ht
    exact hs
  | runsOn ds _ hq => 
    obtain ⟨-, h3, h5⟩ := hq p hp
    exact absurd hop (by simp [h3, h5])
  | stores q hq hop' =>
    cases hp.symm.trans hq
    simp [hop'] at hop
  | finishes p hp hop hs ht => exact ht ▸ not_receiverActive_doneTaken _ _ s
  | aborts p hp hop hs ht => exact ht ▸ not_receiverActive_fileNotFoundTaken _ s
  | exhausts hev hs hcap ht => exact ht ▸ not_receiverActive_exhaustR _

end

end Sys2Proof.Machine

end

section

namespace Sys2Proof.Machine

open Sys2Proof

/-! ## Why a session of a transfer has ended (R299, R305) -/

/-- R299: a DONE or a FILE_NOT_FOUND is among the sender's datagrams. -/
def DecisiveSent (s : State) : Prop :=
  ∃ d ∈ txPort .sender s, ∃ p, decodePacket d = .ok p ∧ (p.op = 0x05#8 ∨ p.op = 0x03#8)

/-- Why the engines have left their waiting states: a sender that no longer waits has sent a DONE or a
FILE_NOT_FOUND, or gave up at its cap, or the receiver has ended; a receiver does not end with one of these packets
before the sender sent it, and gives up at a cap alone. -/
structure EndsExplained (ca cb : Config) (l : Link) : Prop where
  sender : l.a.snd.state = .doneWait ∨ l.a.snd.state = .missing ∨ l.a.snd.state = .terminated →
    DecisiveSent l.a ∨ ca.retryCap ≠ none ∨ ¬ receiverActive l.b
  receiver : l.b.rcv.state = .flushedOnDone ∨ l.b.rcv.state = .abortedOnMissing →
    l.a.snd.state ≠ .awaitReq ∧ l.a.snd.state ≠ .sendWait
  failed : l.b.rcv.state = .failed → cb.retryCap ≠ none

section

variable {ca cb : Config} {path : Bytes} {l : Link} {ev : LinkEvent} {s t a b : State} {p : Packet}

theorem decisiveSent_done {seq : SeqNo} (h : frame 0x05#8 seq [] ∈ txPort .sender s) : DecisiveSent s :=
  ⟨_, h, _, decodePacket_frame (by decide) (by decide) rfl, .inl rfl⟩

theorem decisiveSent_fileNotFound (h : frame 0x03#8 0#32 [] ∈ txPort .sender s) : DecisiveSent s :=
  ⟨_, h, _, decodePacket_frame (by decide) (by decide) rfl, .inr rfl⟩

theorem SenderTurn.decisiveSent (h : SenderTurn ev s t) (hs : DecisiveSent s) : DecisiveSent t := by
  obtain ⟨d, hd, hp⟩ := hs
  exact ⟨d, h.mem_txPort hd, hp⟩

/-- R157: a sender that serves from past the file has sent its DONE. -/
theorem decisiveSent_served {img : Bytes} {start : SeqNo} (hstate : t.snd.state = servingState img start)
    (htx : txPort .sender t = txPort .sender s ++ servedPackets img start) (ht : t.snd.state ≠ .sendWait) :
    DecisiveSent t := by
  unfold servingState at hstate
  unfold servedPackets at htx
  split_ifs at hstate htx
  · refine decisiveSent_done (seq := start) ?_
    rw [htx]
    exact List.mem_append_right _ (List.mem_singleton_self _)
  · exact absurd hstate ht

/-- An event of the sender keeps the ends explained. -/
theorem EndsExplained.senderTurn (h : EndsExplained ca cb l) (hstep : InStep ca cb path l) (hturn : SenderTurn ev l.a a)
    (hport : FromPort ev (txPort .receiver l.b)) : EndsExplained ca cb ⟨a, l.b⟩ where
  failed := h.failed
  sender ha := by
    have old (hs : l.a.snd.state = .doneWait ∨ l.a.snd.state = .missing ∨ l.a.snd.state = .terminated) :
        DecisiveSent a ∨ ca.retryCap ≠ none ∨ ¬ receiverActive l.b := (h.sender hs).imp_left hturn.decisiveSent
    have hsend : a.snd.state ≠ .sendWait := fun hs => by simp [hs] at ha
    cases hturn with
    | keeps c hev hp ht =>
      refine old ?_
      simpa only [ht] using ha
    | reportsMissing p hp hop hs hfile ht htx =>
      refine .inl (decisiveSent_fileNotFound ?_)
      rw [htx]
      exact List.mem_append_right _ (List.mem_singleton_self _)
    | opens p img hp hop hs hfile hstart ht hstate htx => exact .inl (decisiveSent_served hstate htx hsend)
    | advances p img hp hop hs hfile hn hstart ht hstate htx => exact .inl (decisiveSent_served hstate htx hsend)
    | resends img n hs hfile hcause ht => exact absurd (by rw [ht]; exact hs) hsend
    | reportsAgain hs => exact old (.inr (.inl hs))
    | ends hs hcause =>
      obtain hs | hs | hs := hs
      · obtain hcap | ⟨p, hp, hop⟩ := hcause hs
        · exact .inr (.inl (hstep.cfgA ▸ hcap))
        · obtain ⟨d, hmem, hd⟩ := hport p hp
          exact .inr (.inr ((hstep.sentBack d hmem).ended hd hop))
      · exact old (.inl hs)
      · exact old (.inr (.inl hs))
  receiver hb := by
    obtain ⟨hawait, hsend⟩ := h.receiver hb
    cases hturn with
    | keeps c hev hp ht =>
      simp only [ht]
      exact ⟨hawait, hsend⟩
    | reportsMissing _ _ _ hs | opens _ _ _ _ hs => exact absurd hs hawait
    | advances _ _ _ _ hs | resends _ _ hs => exact absurd hs hsend
    | reportsAgain | ends => simp_all

/-- So does an event of the receiver. -/
theorem EndsExplained.receiverTurn (h : EndsExplained ca cb l) (hstep : InStep ca cb path l)
    (hturn : ReceiverTurn ev l.b b) (hport : FromPort ev (txPort .sender l.a)) : EndsExplained ca cb ⟨l.a, b⟩ where
  sender ha := (h.sender ha).imp_right (Or.imp_right fun hb hb' => hb (hturn.active_of_active hb'))
  receiver hb := by
    have active {st : RState} (hst : b.rcv.state = st) (hs : st = .reqSent ∨ st = .receiving) : False := by
      rcases hs with rfl | rfl <;> simp [hst] at hb
    cases hturn with
    | ignores c hs ht =>
      subst ht
      exact h.receiver hb
    | runsOn ds hs hp hstate => exact (active hstate hs).elim
    | stores p hp hop hs ht => exact (active rfl (receiverActive_data hs ht)).elim
    | finishes p hp hop =>
      obtain ⟨d, hmem, hd⟩ := hport p hp
      obtain ⟨-, -, -, hs | hs⟩ := (hstep.sent d hmem).finish hd hop <;> simp [hs]
    | aborts p hp hop =>
      obtain ⟨d, hmem, hd⟩ := hport p hp
      have hnone := (hstep.sent d hmem).missing hd hop
      refine ⟨fun hs => ?_, fun hs => ?_⟩
      · rw [hstep.awaiting hs] at hmem
        cases hmem
      · obtain ⟨img, hready, -, -⟩ := hstep.invA.sender.sendWait hs
        rw [← hstep.serving hs, hready.opened.file_eq] at hnone
        cases hnone
    | exhausts hev hs hcap ht =>
      subst ht
      exact absurd hb (by simp [exhaustR])
  failed hb := by
    have hb : b.rcv.state = .failed := hb
    cases hturn with
    | ignores c hs ht =>
      subst ht
      exact h.failed hb
    | runsOn ds hs hp hstate => rcases hs with hs | hs <;> simp [← hstate, hb] at hs
    | stores p hp hop hs ht => rcases receiverActive_data hs ht with hs | hs <;> simp [hb] at hs
    | finishes p hp hop hs ht =>
      subst ht
      cases hb
    | aborts p hp hop hs ht =>
      subst ht
      cases hb
    | exhausts hev hs hcap => exact hstep.cfgB ▸ hcap

theorem EndsExplained.step (h : EndsExplained ca cb l) (hstep : InStep ca cb path l) {l' : Link}
    (ho : l.offered .detectable ev) (hnext : l.step ev = .next l') : EndsExplained ca cb l' := by
  obtain ⟨a', b'⟩ := l'
  obtain ⟨he, hexec, rfl⟩ | ⟨he, hexec, rfl⟩ := Link.step_cases hnext
  · exact h.senderTurn hstep (exec_senderTurn hstep.invA he hexec) (offered_fromPort_sender he ho)
  · exact h.receiverTurn hstep (exec_receiverTurn he hexec) (offered_fromPort_receiver he ho)

theorem EndsExplained.launched (hp : path.length ≤ chunkSize) (hl : Link.launched ca cb path l) :
    EndsExplained ca cb l := by
  have hsnd := (launched_sender hl).1
  have hrcv := (launched_receiver hl).1 hp
  exact ⟨fun h => by simp [hsnd] at h, fun h => by simp [hrcv] at h, fun h => by simp [hrcv] at h⟩

end

end Sys2Proof.Machine

end

section

namespace Sys2Proof.Machine

open Sys2Proof Filter

/-! ## Fair runs of a launched transfer (R79, R305) -/

/-- The premises of R305 on an infinite run. -/
structure FairRun (ca cb : Config) (path : Bytes) (l : Nat → Link) (ev : Nat → LinkEvent) : Prop where
  wfA : ca.wf = true
  wfB : cb.wf = true
  cap_eq : ca.retryCap = cb.retryCap
  path_le : path.length ≤ chunkSize
  launched : Link.launched ca cb path (l 0)
  run : infiniteRun .detectable l ev
  channel : channelFair l ev
  timers : weaklyFair .detectable l ev
  duplicates : cb.retryCap = none ∨ duplicatesFinitely l ev

/-- R9: there is a reorder slot. -/
theorem Config.wf_rbDepth_pos {c : Config} (hc : c.wf = true) : 0 < c.rbDepth := by
  simp only [Config.wf, Bool.and_eq_true, decide_eq_true_eq] at hc
  obtain ⟨⟨-, hdepth⟩, -⟩ := hc
  exact Nat.lt_of_lt_of_le (by decide) hdepth

/-- R43, R211: the chunk at or below the cursor, once it has arrived, is in the seen-set. -/
theorem InStep.seen_of_data {ca cb : Config} {path img : Bytes} {l : Link} {b : State} {k : Nat}
    (h : InStep ca cb path l) (hturn : ReceiverTurn (.toReceiver (dataPacket img k)) l.b b) (hs : receiverActive l.b)
    (hfile : requestedFile ca path = some img) (hk : (k : Int) ≤ maxSequenceOf img.length)
    (hle : k ≤ l.b.rcv.writeCursor.toNat) : seen b k = true := by
  have hp := LinkEvent.packet_toReceiver (decodePacket_dataPacket img k)
  obtain ⟨-, hexec⟩ := hturn.receiving_of_data hs hp rfl
  have hseq : (framedPacket 0x01#8 (BitVec.ofNat 32 k) (fileChunk img k)).seq.toNat = k := chunk_toNat hfile hk
  have hdepth : 0 < l.b.cfg.rbDepth := by
    obtain ⟨hwf, -⟩ := h.invB
    exact Config.wf_rbDepth_pos hwf
  have hseen := seen_data_self h.invB hs (chunk_ne_max (requestedFile_length_le hfile) (by rw [hseq]; exact hk))
    (by rw [hseq]; omega) hexec
  rwa [hseq] at hseen

/-- What the two engines have sent before step `n`. -/
def sentPort (l : Nat → Link) (n : Nat) : List Datagram := txPort .sender (l n).a
def sentBackPort (l : Nat → Link) (n : Nat) : List Datagram := txPort .receiver (l n).b

section

variable {ca cb : Config} {path : Bytes} {l : Nat → Link} {ev : Nat → LinkEvent} (hr : FairRun ca cb path l ev)
include hr

/-! ### What every step keeps -/

theorem FairRun.inStep (n : Nat) : InStep ca cb path (l n) := by
  induction n with
  | zero => exact .launched hr.wfA hr.wfB hr.launched
  | succ n ih =>
    obtain ⟨ho, hstep⟩ := hr.run n
    exact ih.step ho hstep

theorem FairRun.endsExplained (n : Nat) : EndsExplained ca cb (l n) := by
  induction n with
  | zero => exact .launched hr.path_le hr.launched
  | succ n ih =>
    obtain ⟨ho, hstep⟩ := hr.run n
    exact ih.step (hr.inStep n) ho hstep

/-- The sender takes the event of step `n`, or stays as it is. -/
theorem FairRun.sender_cases (n : Nat) :
    (engineOf (ev n).instr = some .sender ∧ SenderTurn (ev n) (l n).a (l (n + 1)).a) ∨ (l (n + 1)).a = (l n).a := by
  obtain ⟨he, hexec, -⟩ | ⟨-, -, ha⟩ := Link.step_cases (hr.run n).2
  · exact .inl ⟨he, exec_senderTurn (hr.inStep n).invA he hexec⟩
  · exact .inr ha

/-- So does the receiver. -/
theorem FairRun.receiver_cases (n : Nat) :
    (engineOf (ev n).instr = some .receiver ∧ ReceiverTurn (ev n) (l n).b (l (n + 1)).b) ∨ (l (n + 1)).b = (l n).b := by
  obtain ⟨-, -, hb⟩ | ⟨he, hexec, -⟩ := Link.step_cases (hr.run n).2
  · exact .inr hb
  · exact .inl ⟨he, exec_receiverTurn he hexec⟩

theorem FairRun.senderTurn {n : Nat} {e : LinkEvent} (hev : ev n = e) (he : engineOf e.instr = some .sender) :
    SenderTurn e (l n).a (l (n + 1)).a := by
  subst hev
  obtain ⟨-, hexec, -⟩ | ⟨he', -, -⟩ := Link.step_cases (hr.run n).2
  · exact exec_senderTurn (hr.inStep n).invA he hexec
  · cases he.symm.trans he'

theorem FairRun.receiverTurn {n : Nat} {e : LinkEvent} (hev : ev n = e) (he : engineOf e.instr = some .receiver) :
    ReceiverTurn e (l n).b (l (n + 1)).b := by
  subst hev
  obtain ⟨he', -, -⟩ | ⟨-, hexec, -⟩ := Link.step_cases (hr.run n).2
  · cases he.symm.trans he'
  · exact exec_receiverTurn he hexec

theorem FairRun.sentPort_append (n : Nat) : ∃ ds, sentPort l (n + 1) = sentPort l n ++ ds := by
  obtain ⟨-, hturn⟩ | ha := hr.sender_cases n
  · exact hturn.txPort_append
  · exact ⟨[], by rw [sentPort, ha, List.append_nil, sentPort]⟩

theorem FairRun.sentBackPort_append (n : Nat) : ∃ ds, sentBackPort l (n + 1) = sentBackPort l n ++ ds := by
  obtain ⟨-, hturn⟩ | hb := hr.receiver_cases n
  · obtain ⟨ds, hds, -⟩ := hturn.txPort_append (hr.inStep n).path_eq
    exact ⟨ds, hds⟩
  · exact ⟨[], by rw [sentBackPort, hb, List.append_nil, sentBackPort]⟩

theorem FairRun.sender_code_mono : Monotone fun n => (l n).a.snd.state.code.toNat :=
  monotone_nat_of_le_succ fun n => by
    obtain ⟨-, hturn⟩ | ha := hr.sender_cases n
    · exact hturn.code_le
    · rw [ha]

theorem FairRun.receiver_code_mono : Monotone fun n => (l n).b.rcv.state.code.toNat :=
  monotone_nat_of_le_succ fun n => by
    obtain ⟨-, hturn⟩ | hb := hr.receiver_cases n
    · exact hturn.code_le
    · rw [hb]

/-! ### What settles -/

theorem FairRun.sender_settles : ∃ st, ∀ᶠ n in atTop, (l n).a.snd.state = st :=
  eventually_eq_of_code (code := fun st => (SState.code st).toNat)
    (fun _ _ h => SState.code_injective (BitVec.eq_of_toNat_eq h))
    (.of_forall fun n => hr.sender_code_mono n.le_succ) fun _ => SState.code_le _

theorem FairRun.receiver_settles : ∃ st, ∀ᶠ n in atTop, (l n).b.rcv.state = st :=
  eventually_eq_of_code (code := fun st => (RState.code st).toNat)
    (fun _ _ h => RState.code_injective (BitVec.eq_of_toNat_eq h))
    (.of_forall fun n => hr.receiver_code_mono n.le_succ) fun _ => RState.code_le _

theorem FairRun.cursor_settles : ∃ c, ∀ᶠ n in atTop, (l n).b.rcv.writeCursor = c := by
  refine eventually_eq_of_code (code := BitVec.toNat) (fun _ _ => BitVec.eq_of_toNat_eq) (.of_forall fun n => ?_)
    fun n => (BitVec.isLt _).le
  obtain ⟨-, hturn⟩ | hb := hr.receiver_cases n
  · exact hturn.writeCursor_le (hr.inStep n).invB
  · rw [hb]

theorem FairRun.window_settles (hs : ∀ᶠ n in atTop, (l n).a.snd.state = .sendWait) :
    ∃ w, ∀ᶠ n in atTop, (l n).a.snd.windowStart = w := by
  refine eventually_eq_of_code (code := BitVec.toNat) (fun _ _ => BitVec.eq_of_toNat_eq) ?_ fun n => (BitVec.isLt _).le
  filter_upwards [hs, eventually_succ hs] with n hn hn'
  obtain ⟨-, hturn⟩ | ha := hr.sender_cases n
  · exact hturn.windowStart_le hn hn'
  · rw [ha]

/-! ### Fairness -/

theorem FairRun.frequently_timeoutS (h : ∀ᶠ n in atTop, timerArmed .sender (l n).a = true) :
    ∃ᶠ n in atTop, ev n = .timeoutS :=
  frequently_atTop.mpr (hr.timers .timeoutS (.inl rfl) (eventually_atTop.mp h))

theorem FairRun.frequently_timeoutR (h : ∀ᶠ n in atTop, receiverActive (l n).b) :
    ∃ᶠ n in atTop, ev n = .timeoutR := by
  refine frequently_atTop.mpr (hr.timers .timeoutR (.inr (.inl rfl)) (eventually_atTop.mp (h.mono fun n hn => ?_)))
  show timerArmed .receiver (l n).b = true
  rcases hn with hn | hn <;> simp [timerArmed, hn]

/-- R79: what is emitted again and again is delivered again and again. -/
theorem FairRun.delivered {d : Datagram} (h : ∃ᶠ n in atTop, EmitsAt (sentPort l) d n) :
    ∃ᶠ n in atTop, ev n = .toReceiver d :=
  frequently_atTop.mpr (hr.channel.1 d (frequently_atTop.mp h))

theorem FairRun.deliveredBack {d : Datagram} (h : ∃ᶠ n in atTop, EmitsAt (sentBackPort l) d n) :
    ∃ᶠ n in atTop, ev n = .toSender d :=
  frequently_atTop.mpr (hr.channel.2 d (frequently_atTop.mp h))

/-- R78: under a cap, and so with finite duplication, what is delivered again and again is emitted so. -/
theorem FairRun.emitted {d : Datagram} {p : Packet} (hcap : cb.retryCap ≠ none) (hd : decodePacket d = .ok p)
    (h : ∃ᶠ n in atTop, ev n = .toReceiver d) : ∃ᶠ n in atTop, EmitsAt (sentPort l) d n := by
  have hdup := (hr.duplicates.resolve_left hcap).1 d
  refine frequently_emitsAt hr.sentPort_append hdup (fun n hn => ?_) h
  have ho := (hr.run n).1
  rw [hn] at ho
  exact ho.mem hd

theorem FairRun.emittedBack {d : Datagram} {p : Packet} (hcap : cb.retryCap ≠ none) (hd : decodePacket d = .ok p)
    (h : ∃ᶠ n in atTop, ev n = .toSender d) : ∃ᶠ n in atTop, EmitsAt (sentBackPort l) d n := by
  have hdup := (hr.duplicates.resolve_left hcap).2 d
  refine frequently_emitsAt hr.sentBackPort_append hdup (fun n hn => ?_) h
  have ho := (hr.run n).1
  rw [hn] at ho
  exact ho.mem hd

/-! ### The sender leaves every waiting state (R305 (a)) -/

/-- R164: it does not wait for a DONE_ACK forever. -/
theorem FairRun.leaves_doneWait : ¬ ∀ᶠ n in atTop, (l n).a.snd.state = .doneWait := by
  intro hs
  have htimeout := hr.frequently_timeoutS (hs.mono fun n hn => by simp [timerArmed, hn])
  obtain ⟨n, hev, hn, hn'⟩ := (htimeout.and_eventually (hs.and (eventually_succ hs))).exists
  cases hr.senderTurn hev rfl with
  | keeps _ hev => exact hev rfl
  | reportsMissing | opens | advances | resends | reportsAgain | ends => simp_all

/-- R168: nor for a FILE_NOT_FOUND_ACK. -/
theorem FairRun.leaves_missing : ¬ ∀ᶠ n in atTop, (l n).a.snd.state = .missing := by
  intro hs
  have htimeout := hr.frequently_timeoutS (hs.mono fun n hn => by simp [timerArmed, hn])
  have hmono : ∀ᶠ n in atTop, (l n).a.snd.nfCount.toNat ≤ (l (n + 1)).a.snd.nfCount.toNat := by
    filter_upwards [hs, eventually_succ hs] with n hn hn'
    obtain ⟨-, hturn⟩ | ha := hr.sender_cases n
    · exact (hturn.nfCount_le hn hn').1
    · rw [ha]
  have hup : ∃ᶠ n in atTop, (l n).a.snd.nfCount.toNat < (l (n + 1)).a.snd.nfCount.toNat := by
    refine (htimeout.and_eventually (hs.and (eventually_succ hs))).mono fun n ⟨hev, hn, hn'⟩ => ?_
    exact ((hr.senderTurn hev rfl).nfCount_le hn hn').2 rfl
  obtain ⟨n, hlt, hle⟩ :=
    ((frequently_decreases (fun n => (BitVec.isLt (l n).a.snd.nfCount).le) hup).and_eventually hmono).exists
  exact hlt.not_ge hle

section

variable (hs : ∀ᶠ n in atTop, (l n).a.snd.state = .sendWait)
include hs

theorem FairRun.sendWait_timeouts : ∃ᶠ n in atTop, ev n = .timeoutS :=
  hr.frequently_timeoutS (hs.mono fun n hn => by simp [timerArmed, hn])

/-- R161: the first chunk of the window is sent again and again, so it arrives again and again. -/
theorem FairRun.window_delivered {w : SeqNo} (hw : ∀ᶠ n in atTop, (l n).a.snd.windowStart = w) :
    ∃ img, requestedFile ca path = some img ∧ (w.toNat : Int) ≤ maxSequenceOf img.length ∧
      ∃ᶠ n in atTop, ev n = .toReceiver (dataPacket img w.toNat) := by
  have file {n : Nat} (hn : (l n).a.snd.state = .sendWait) :
      ∃ img, (l n).a.snd.file = some img ∧ requestedFile ca path = some img ∧
        ((l n).a.snd.windowStart.toNat : Int) ≤ maxSequenceOf img.length := by
    obtain ⟨img, hready, hle, -⟩ := (hr.inStep n).invA.sender.sendWait hn
    exact ⟨img, hready.opened.file_eq, ((hr.inStep n).serving hn).symm.trans hready.opened.file_eq, hle⟩
  obtain ⟨N, hN, hNw⟩ := (hs.and hw).exists
  obtain ⟨img, -, hfile, hle⟩ := file hN
  rw [hNw] at hle
  refine ⟨img, hfile, hle, hr.delivered ?_⟩
  have hall := hs.and ((eventually_succ hs).and hw)
  refine ((hr.sendWait_timeouts hs).and_eventually hall).mono fun n ⟨hev, hn, hn', hnw⟩ => ?_
  obtain ⟨img', hopen, -, htx⟩ := (hr.senderTurn hev rfl).resent hn hn'
  obtain ⟨img'', hopen', hfile', -⟩ := file hn
  cases hopen.symm.trans hopen'
  cases hfile.symm.trans hfile'
  refine emitsAt_of_append htx (mem_windowPackets.mpr ⟨w.toNat, hnw ▸ le_rfl, ?_, rfl⟩)
  rw [hnw]
  unfold windowEndOf
  omega

/-- R162: under a cap the sender waits on only while some ACK arrives again and again. -/
theorem FairRun.ack_delivered {cap : Nat} (hcap : ca.retryCap = some cap) :
    ∃ next, ∃ᶠ n in atTop, ev n = .toSender (ackPacket next) := by
  have hbound (n : Nat) : (l n).a.snd.toCount ≤ cap := by
    have hcount := (hr.inStep n).invA.sender.count
    rw [(hr.inStep n).cfgA, hcap] at hcount
    exact hcount.1
  have hup : ∃ᶠ n in atTop, (l n).a.snd.toCount < (l (n + 1)).a.snd.toCount := by
    refine ((hr.sendWait_timeouts hs).and_eventually (hs.and (eventually_succ hs))).mono fun n ⟨hev, hn, hn'⟩ => ?_
    obtain ⟨-, -, hcount, -⟩ := (hr.senderTurn hev rfl).resent hn hn'
    omega
  refine exists_frequently (((frequently_decreases hbound hup).and_eventually (hs.and (eventually_succ hs))).mono ?_)
  intro n ⟨hlt, hn, hn'⟩
  obtain ⟨he, hturn⟩ | ha := hr.sender_cases n
  · obtain ⟨p, hp, hop⟩ := hturn.ack_of_count_lt hn hn' hlt
    obtain ⟨d, hev, hd⟩ := LinkEvent.toSender_of_packet he hp
    have ho := (hr.run n).1
    rw [hev] at ho
    obtain ⟨rfl, -⟩ := ((hr.inStep n).sentBack d (ho.mem hd)).acks hd hop
    exact ⟨_, hev⟩
  · rw [ha] at hlt
    exact absurd hlt (Nat.lt_irrefl _)

end

/-- R201: the receiver has a session, running or ended. -/
theorem FairRun.ended_of_not_active {n : Nat} (h : ¬ receiverActive (l n).b) :
    (l n).b.rcv.state ∈ [.flushedOnDone, .abortedOnMissing, .failed] := by
  have hle := hr.receiver_code_mono (Nat.zero_le n)
  simp only [(launched_receiver hr.launched).1 hr.path_le] at hle
  rcases hst : (l n).b.rcv.state <;> simp_all [receiverActive, RState.code]

section

variable (hs : ∀ᶠ n in atTop, (l n).a.snd.state = .sendWait)
include hs

/-- R206, R299: while the sender sends its window the receiver takes it. A receiver that gave up would answer no
more, and the sender would give up as well. -/
theorem FairRun.receiving : ∀ᶠ n in atTop, (l n).b.rcv.state = .receiving := by
  obtain ⟨st, hst⟩ := hr.receiver_settles
  obtain ⟨n, hn, hsend⟩ := (hst.and hs).exists
  cases st with
  | idle => exact absurd (hr.ended_of_not_active (n := n) (by simp [receiverActive, hn])) (by simp [hn])
  | reqSent =>
    obtain ⟨w, hw⟩ := hr.window_settles hs
    obtain ⟨img, -, -, hdata⟩ := hr.window_delivered hs hw
    obtain ⟨m, hev, hm, hm'⟩ := (hdata.and_eventually (hst.and (eventually_succ hst))).exists
    have hturn := hr.receiverTurn hev rfl
    have hnext := (hturn.receiving_of_data (.inl hm) (LinkEvent.packet_toReceiver (decodePacket_dataPacket ..)) rfl).1
    cases hm'.symm.trans hnext
  | receiving => exact hst
  | flushedOnDone => exact absurd hsend ((hr.endsExplained n).receiver (.inl hn)).2
  | abortedOnMissing => exact absurd hsend ((hr.endsExplained n).receiver (.inr hn)).2
  | failed =>
    have hcap := (hr.endsExplained n).failed hn
    obtain ⟨cap, hcap'⟩ := Option.ne_none_iff_exists'.mp hcap
    obtain ⟨next, hack⟩ := hr.ack_delivered hs (hr.cap_eq.trans hcap')
    have hemits := hr.emittedBack hcap (decodePacket_ackPacket next) hack
    obtain ⟨m, hm, hfailed⟩ := (hemits.and_eventually hst).exists
    refine absurd hm (not_emitsAt_of_eq ?_)
    obtain ⟨-, hturn⟩ | hb := hr.receiver_cases m
    · exact hturn.txPort_ended (by simp [receiverActive, hfailed])
    · rw [sentBackPort, hb, sentBackPort]

section

variable {w c : SeqNo} (hw : ∀ᶠ n in atTop, (l n).a.snd.windowStart = w)
  (hc : ∀ᶠ n in atTop, (l n).b.rcv.writeCursor = c)

include hc in
/-- R225: a cursor that no longer moves is acknowledged again and again, and is not in the seen-set then. -/
theorem FairRun.cursor_acked :
    ∃ᶠ n in atTop, EmitsAt (sentBackPort l) (ackPacket c) n ∧ seen (l (n + 1)).b c.toNat = false := by
  have hrecv := hr.receiving hs
  have htimeout : ∃ᶠ n in atTop, ev n = .timeoutR := hr.frequently_timeoutR (hrecv.mono fun n hn => .inr hn)
  refine (htimeout.and_eventually (hrecv.and ((eventually_succ hrecv).and (eventually_succ hc)))).mono ?_
  rintro n ⟨hev, hn, hn', rfl⟩
  obtain ⟨ds, htx, hmem, hnew⟩ := (hr.receiverTurn hev rfl).acked hn (.inr hn')
  exact ⟨emitsAt_of_append htx hmem, hnew⟩

include hw hc

/-- R159, R304: that acknowledgment would move the window, so it does not pass the window's start. -/
theorem FairRun.cursor_eq_start : c = w := by
  refine BitVec.eq_of_toNat_eq (le_antisymm ?_ ?_)
  · have hdelivered := hr.deliveredBack ((hr.cursor_acked hs hc).mono fun n hn => hn.1)
    have hsettled := (hs.and (eventually_succ hs)).and (hw.and (eventually_succ hw))
    obtain ⟨n, hev, ⟨hn, hn'⟩, hnw, hnw'⟩ := (hdelivered.and_eventually hsettled).exists
    by_contra hlt
    have hmoved := (hr.senderTurn hev rfl).moved hn hn' (LinkEvent.packet_toSender (decodePacket_ackPacket c)) rfl
      (by rw [ackNext_framedPacket, hnw]; omega)
    rw [ackNext_framedPacket, hnw'] at hmoved
    exact hlt (hmoved ▸ le_rfl)
  · obtain ⟨n, hnw, hnc⟩ := (hw.and hc).exists
    exact hnw ▸ hnc ▸ (hr.inStep n).start_le

/-- R161, R211: the chunk there arrives, and stays in the seen-set. -/
theorem FairRun.start_seen : ∀ᶠ n in atTop, seen (l n).b w.toNat = true := by
  obtain ⟨img, hfile, hle, hdata⟩ := hr.window_delivered hs hw
  have hcw := hr.cursor_eq_start hs hw hc
  refine eventually_of_frequently_succ ((hdata.and_eventually ((hr.receiving hs).and hc)).mono ?_)
    (.of_forall fun n hn => ?_)
  · rintro n ⟨hev, hn, hnc⟩
    exact (hr.inStep n).seen_of_data (hr.receiverTurn hev rfl) (.inr hn) hfile hle (by rw [hnc, hcw])
  · obtain ⟨-, hturn⟩ | hb := hr.receiver_cases n
    · exact hturn.seen_mono (hr.inStep n).invB hn
    · rw [hb, hn]

end

end

/-- R159, R305: it does not send its window forever: the window and the cursor would settle, on a number that is in
the seen-set and is not. -/
theorem FairRun.leaves_sendWait : ¬ ∀ᶠ n in atTop, (l n).a.snd.state = .sendWait := by
  intro hs
  obtain ⟨w, hw⟩ := hr.window_settles hs
  obtain ⟨c, hc⟩ := hr.cursor_settles
  cases hr.cursor_eq_start hs hw hc
  obtain ⟨n, ⟨-, hnew⟩, hold⟩ :=
    ((hr.cursor_acked hs hc).and_eventually (eventually_succ (hr.start_seen hs hw hc))).exists
  rw [hold] at hnew
  cases hnew

/-- R305 (a): a sender that has left `S_AWAIT_REQ` ends its session. -/
theorem FairRun.sender_ends (h : ∃ n, (l n).a.snd.state ≠ .awaitReq) : ∃ n, (l n).a.snd.state = .terminated := by
  obtain ⟨n, hn⟩ := h
  obtain ⟨st, hst⟩ := hr.sender_settles
  obtain ⟨N, hN⟩ := eventually_atTop.mp hst
  have hstart : 1 ≤ (l n).a.snd.state.code.toNat := by
    have hle := hr.sender_code_mono (Nat.zero_le n)
    simp only [(launched_sender hr.launched).1] at hle
    exact hle
  have hlate := hr.sender_code_mono (le_max_right N n)
  simp only [hN _ (le_max_left N n)] at hlate
  have hleft : 2 ≤ st.code.toNat := by
    refine le_trans ?_ hlate
    rcases hc : (l n).a.snd.state <;> simp_all [SState.code]
  cases st with
  | idle | awaitReq => exact absurd hleft (by decide)
  | sendWait => exact absurd hst hr.leaves_sendWait
  | doneWait => exact absurd hst hr.leaves_doneWait
  | missing => exact absurd hst hr.leaves_missing
  | terminated => exact ⟨N, hN N le_rfl⟩

/-! ### The receiver's session ends (R305 (b)) -/

section

variable (hactive : ∀ n, receiverActive (l n).b)
include hactive

/-- R226: under a cap the receiver waits on only while some chunk arrives again and again. -/
theorem FairRun.data_delivered {cap : Nat} (hcap : cb.retryCap = some cap) :
    ∃ img k, ∃ᶠ n in atTop, ev n = .toReceiver (dataPacket img k) := by
  have hbound (n : Nat) : (l n).b.rcv.toCount ≤ cap := by
    have hcount := (hr.inStep n).invB.receiver.count (hactive n)
    rw [(hr.inStep n).cfgB, hcap] at hcount
    exact hcount.1
  have hup : ∃ᶠ n in atTop, (l n).b.rcv.toCount < (l (n + 1)).b.rcv.toCount :=
    (hr.frequently_timeoutR (.of_forall hactive)).mono fun n hev =>
      Nat.lt_of_lt_of_eq (Nat.lt_succ_self _) ((hr.receiverTurn hev rfl).counted (hactive n) (hactive (n + 1))).symm
  have hdata : ∃ᶠ n in atTop, ∃ seq : SeqNo, ∃ img, requestedFile ca path = some img ∧
      ev n = .toReceiver (dataPacket img seq.toNat) := by
    refine (frequently_decreases hbound hup).mono fun n hlt => ?_
    obtain ⟨he, hturn⟩ | hb := hr.receiver_cases n
    · obtain ⟨p, hp, hop⟩ := hturn.data_of_count_lt (hactive n) (hactive (n + 1)) hlt
      obtain ⟨d, hev, hd⟩ := LinkEvent.toReceiver_of_packet he hp
      have ho := (hr.run n).1
      rw [hev] at ho
      obtain ⟨img, hfile, rfl, -⟩ := ((hr.inStep n).sent d (ho.mem hd)).data hd hop
      exact ⟨p.seq, img, hfile, hev⟩
    · rw [hb] at hlt
      exact absurd hlt (Nat.lt_irrefl _)
  obtain ⟨seq, hseq⟩ := exists_frequently hdata
  obtain ⟨-, img, hfile, -⟩ := hseq.exists
  refine ⟨img, seq.toNat, hseq.mono ?_⟩
  rintro n ⟨img', hfile', hev⟩
  cases hfile.symm.trans hfile'
  exact hev

/-- R305 (b): so under a cap it does not wait forever: the sender would send that chunk forever. -/
theorem FairRun.retryCap_eq_none : cb.retryCap = none := by
  by_contra hcap
  obtain ⟨cap, hcap'⟩ := Option.ne_none_iff_exists'.mp hcap
  obtain ⟨img, k, hdata⟩ := hr.data_delivered hactive hcap'
  have hemits := hr.emitted hcap (decodePacket_dataPacket img k) hdata
  obtain ⟨st, hst⟩ := hr.sender_settles
  obtain ⟨n, hn, hs, hs'⟩ := (hemits.and_eventually (hst.and (eventually_succ hst))).exists
  obtain ⟨-, hturn⟩ | ha := hr.sender_cases n
  · obtain ⟨ds, hds⟩ := hturn.txPort_append
    have hsend := hturn.sendWait_of_emits (hs'.trans hs.symm) hds (mem_of_emitsAt hds hn)
      (decodePacket_dataPacket img k) rfl
    exact hr.leaves_sendWait (hs.symm.trans hsend ▸ hst)
  · exact not_emitsAt_of_eq (by rw [sentPort, ha, sentPort]) hn

end

/-- R305 (b): a packet that ends sessions, once taken, has ended the receiver's. -/
theorem FairRun.ended_of_taken {op : Byte} (hop : op = 0x05#8 ∨ op = 0x03#8) (h : receiverTakes op ev) :
    ∃ n, ¬ receiverActive (l n).b := by
  obtain ⟨n, d, p, hev, hd, rfl⟩ := h
  exact ⟨n + 1, (hr.receiverTurn hev rfl).ends_of_decisive (LinkEvent.packet_toReceiver hd) hop⟩

/-- R305 (b): where the decisive packets arrive, or a cap is set, the receiver's session ends. -/
theorem FairRun.receiver_ends (h : decisivePacketsArrive l ev ∨ cb.retryCap ≠ none) :
    ∃ n, ¬ receiverActive (l n).b := by
  by_contra! hactive
  have hcap := hr.retryCap_eq_none hactive
  obtain ⟨⟨n, d, p, hev, hd, hop⟩, hdone, hmissing⟩ := h.resolve_right (not_not.mpr hcap)
  have hleft := (hr.senderTurn hev rfl).leaves_awaitReq (LinkEvent.packet_toSender hd) hop
  obtain ⟨m, hm⟩ := hr.sender_ends ⟨n + 1, hleft⟩
  have ended : ∃ n, ¬ receiverActive (l n).b := by
    obtain ⟨d, hmem, p, hp, hop | hop⟩ | hcapA | hb := (hr.endsExplained m).sender (.inr (.inr hm))
    · exact hr.ended_of_taken (.inl rfl) (hdone ⟨m, d, p, hmem, hp, hop⟩)
    · exact hr.ended_of_taken (.inr rfl) (hmissing ⟨m, d, p, hmem, hp, hop⟩)
    · exact absurd (hr.cap_eq.trans hcap) hcapA
    · exact ⟨m, hb⟩
  obtain ⟨k, hk⟩ := ended
  exact hk (hactive k)

end

/-- Settles O60: (a) by the three states a sender cannot stay in, (b) by what ends the receiver's session. -/
theorem fairTransfersEnd : Obligations.FairTransfersEnd := by
  intro ca cb path l ev hca hcb hcap hp hl hrun hchannel htimers hdup
  have hr : FairRun ca cb path l ev := ⟨hca, hcb, hcap, hp, hl, hrun, hchannel, htimers, hdup⟩
  refine ⟨hr.sender_ends, fun h => ?_⟩
  obtain ⟨n, hn⟩ := hr.receiver_ends h
  exact ⟨n, hr.ended_of_not_active hn⟩

end Sys2Proof.Machine

end
